-- ==== Sys2Proof/Word.lean ====
section
/-! DEFINITION. The value types of the block: the 32-bit word of the CMD stream and of a ROI record, the number
type NUM of the pipeline, a tap triple, and the two containers, `Memory` (stored, sparse, canonical) and
`Grid` (transient, dense). Only types stand here; the arithmetic is in Machine/NumOps.lean. -/

namespace Sys2Proof

/-- A 32-bit word: the unit of the CMD word and of the ROIDATA space (20_memory.md R80). -/
abbrev Word := BitVec 32

/-- NUM, an IEEE 754 binary64 value held as its bit pattern (00_scope.md R14). It is a structure, not an
abbreviation, so that no integer operation of `BitVec` can be applied to it by mistake. -/
structure NUM where
  bits : BitVec 64
deriving DecidableEq, Repr, Inhabited

/-- A tap triple `t = (t0, t1, t2)` (00_scope.md R12). -/
structure Taps where
  t0 : NUM
  t1 : NUM
  t2 : NUM
deriving DecidableEq, Repr, Inhabited

/-- A stored map: the entries that differ from the map's reset contents, each with its index, the indices
strictly rising (`Memory.wf`, Machine/Memory.lean). The units are the spec's own (a NUM, a triple, a 16-bit output
word, a bit): no space of this block is byte-addressed (20_memory.md R82; log entry 7). -/
abbrev Memory (α : Type) := List (Nat × α)

/-- A transient map of the frame pipeline (10_state.md R51), row by row. It is never part of the state. -/
abbrev Grid (α : Type) := List (List α)

end Sys2Proof
end

