-- ==== Sys2Proof/Syntax.lean ====
section
/-! DEFINITION. The ten host commands of 30_encoding.md R102, one constructor per row of spec/opcode_table.json.
There is one command format (R101), so every constructor carries the same fields; ROI also carries the record that
follows it (R100). A command with a nonzero field that it does not use is a command like any other: its meaning
answers REJECT RESERVED_FIELD (R104). -/

namespace Sys2Proof

/-- The fields of the CMD word below the opcode, and the 64-bit argument (30_encoding.md R101). -/
structure CmdFields where
  /-- CMD[23:20], the virtual-sensor index. -/
  vs : BitVec 4
  /-- CMD[19:16], the selector. -/
  sel : BitVec 4
  /-- CMD[15:0], the register number or the mask bit. -/
  imm : BitVec 16
  /-- ARG[63:0]. -/
  arg : BitVec 64
deriving DecidableEq, Repr

/-- A host command (30_encoding.md R102). -/
inductive Instr where
  /-- OPC 0x00 (40_commands.md R150). -/
  | nop (f : CmdFields)
  /-- OPC 0x01 (R151). -/
  | reset (f : CmdFields)
  /-- OPC 0x02 (R152). -/
  | vsreset (f : CmdFields)
  /-- OPC 0x03 (R153). -/
  | wrreg (f : CmdFields)
  /-- OPC 0x04 (R154). -/
  | rdreg (f : CmdFields)
  /-- OPC 0x05 (R155), with its record of ARG[31:0] words. -/
  | roi (f : CmdFields) (record : List Word)
  /-- OPC 0x06 (R162). -/
  | rdout (f : CmdFields)
  /-- OPC 0x07 (R163). -/
  | rddesc (f : CmdFields)
  /-- OPC 0x08 (R164). -/
  | wrmask (f : CmdFields)
  /-- OPC 0x09 (R165). -/
  | rdmask (f : CmdFields)
deriving DecidableEq, Repr

end Sys2Proof
end

