-- ==== Sys2Proof/WellFormed.lean ====
section
/-! DEFINITION. Which commands are well formed: the "0" entries of 30_encoding.md R104's table hold, a global register
is named with VS 0 (R104, last sentence), and a ROI command carries exactly the ARG[31:0] record words that R100 says
follow it. The machine runs ill-formed commands too (they are answered REJECT RESERVED_FIELD); only the record's
length is needed for an encoding to be read back. -/

namespace Sys2Proof

/-- The register numbers of 30_encoding.md R110 whose scope is global. -/
def isGlobalRegNumber (r : BitVec 16) : Bool :=
  r == 0x0000#16 || r == 0x0001#16 || r == 0x0040#16 || r == 0x0041#16 || r == 0x0042#16 || r == 0x0043#16

/-- 30_encoding.md R104: every field the command does not use is zero. -/
def Instr.fieldsLegal : Instr → Bool
  | .nop f => f.vs == 0 && f.sel == 0 && f.imm == 0 && f.arg == 0
  | .reset f => f.vs == 0 && f.sel == 0 && f.imm == 0 && f.arg == 0
  | .vsreset f => f.sel == 0 && f.imm == 0 && f.arg == 0
  | .wrreg f => f.sel == 0 && (!isGlobalRegNumber f.imm || f.vs == 0)
  | .rdreg f => f.sel == 0 && f.arg == 0 && (!isGlobalRegNumber f.imm || f.vs == 0)
  | .roi f _ => f.vs == 0 && f.sel == 0 && f.imm == 0 && f.arg.extractLsb' 32 32 == 0
  | .rdout f => f.imm == 0
  | .rddesc f => f.imm == 0 && f.arg == 0
  | .wrmask f => f.sel == 0 && f.imm.extractLsb' 1 15 == 0
  | .rdmask f => f.sel == 0 && f.imm == 0

/-- 30_encoding.md R100: a ROI command is followed by exactly ARG[31:0] words; no other command is followed by any. -/
def Instr.recordFits : Instr → Bool
  | .roi f record => record.length == (f.arg.extractLsb' 0 32).toNat
  | .nop _ | .reset _ | .vsreset _ | .wrreg _ | .rdreg _ | .rdout _ | .rddesc _ | .wrmask _ | .rdmask _ => true

/-- A command that 30_encoding.md R100 and R104 allow. -/
def Instr.wellFormed (i : Instr) : Bool := i.fieldsLegal && i.recordFits

end Sys2Proof
end

