-- ==== Sys2Proof/Decode.lean ====
section
/-! DEFINITION. The decoder of the host's CMD stream (30_encoding.md R100 to R103), total on any list of words, and
after it the encoder (R127). A stream is a list of 32-bit words: the CMD word, then ARG as two words, the low one first
(log entry 3), then, for OPC 0x05 only, ARG[31:0] record words. -/

namespace Sys2Proof

/-- What the head of the stream holds. -/
inductive Decoded where
  /-- A command is not complete: the host has words still to send. -/
  | incomplete
  /-- OPC 0x0A to 0xFF (30_encoding.md R103); `rest` is the stream after CMD and ARG. -/
  | badOpcode (rest : List Word)
  /-- A whole command, and the stream after it. -/
  | instr (i : Instr) (rest : List Word)
deriving DecidableEq, Repr

/-- CMD[31:24] (30_encoding.md R101). -/
def cmdOpcode (cmd : Word) : Nat := (cmd.extractLsb' 24 8).toNat

/-- The fields of one CMD word and its argument (30_encoding.md R101). -/
def cmdFields (cmd argLow argHigh : Word) : CmdFields where
  vs := cmd.extractLsb' 20 4
  sel := cmd.extractLsb' 16 4
  imm := cmd.extractLsb' 0 16
  arg := argHigh ++ argLow

/-- ARG[31:0] of a ROI command: RECLEN, the record's length in words (30_encoding.md R104). -/
def recLen (f : CmdFields) : Nat := (f.arg.extractLsb' 0 32).toNat

/-- A ROI command takes its record from the stream (30_encoding.md R100). -/
def decodeRoi (f : CmdFields) (rest : List Word) : Decoded :=
  if rest.length < recLen f then .incomplete
  else .instr (.roi f (rest.take (recLen f))) (rest.drop (recLen f))

/-- The command that an opcode stands for (30_encoding.md R102), reading its record where it has one. -/
def decodeCommand (opc : Nat) (f : CmdFields) (rest : List Word) : Decoded :=
  match opc with
  | 0x00 => .instr (.nop f) rest
  | 0x01 => .instr (.reset f) rest
  | 0x02 => .instr (.vsreset f) rest
  | 0x03 => .instr (.wrreg f) rest
  | 0x04 => .instr (.rdreg f) rest
  | 0x05 => decodeRoi f rest
  | 0x06 => .instr (.rdout f) rest
  | 0x07 => .instr (.rddesc f) rest
  | 0x08 => .instr (.wrmask f) rest
  | 0x09 => .instr (.rdmask f) rest
  | _ => .badOpcode rest

/-- The decoder (30_encoding.md R100): it reads CMD and ARG, and for OPC 0x05 the record. -/
def decode : List Word → Decoded
  | cmd :: argLow :: argHigh :: rest => decodeCommand (cmdOpcode cmd) (cmdFields cmd argLow argHigh) rest
  | _ => .incomplete

/-- The opcode of each command (30_encoding.md R102). -/
def opcodeOf : Instr → BitVec 8
  | .nop _ => 0x00
  | .reset _ => 0x01
  | .vsreset _ => 0x02
  | .wrreg _ => 0x03
  | .rdreg _ => 0x04
  | .roi _ _ => 0x05
  | .rdout _ => 0x06
  | .rddesc _ => 0x07
  | .wrmask _ => 0x08
  | .rdmask _ => 0x09

/-- The fields of a command. -/
def fieldsOf : Instr → CmdFields
  | .nop f | .reset f | .vsreset f | .wrreg f | .rdreg f | .rdout f | .rddesc f | .wrmask f | .rdmask f => f
  | .roi f _ => f

/-- The record words that follow a command: none but for ROI. -/
def recordOf : Instr → List Word
  | .roi _ record => record
  | .nop _ | .reset _ | .vsreset _ | .wrreg _ | .rdreg _ | .rdout _ | .rddesc _ | .wrmask _ | .rdmask _ => []

/-- The CMD word of an opcode and its fields (30_encoding.md R101, R127). -/
def encodeCmd (opc : BitVec 8) (f : CmdFields) : Word := opc ++ f.vs ++ f.sel ++ f.imm

/-- The words of a command, in the order the host sends them (30_encoding.md R100, R127). -/
def encode (i : Instr) : List Word :=
  [encodeCmd (opcodeOf i) (fieldsOf i), (fieldsOf i).arg.extractLsb' 0 32, (fieldsOf i).arg.extractLsb' 32 32]
    ++ recordOf i

/-- The first `n` 32-bit words of the number `w`, the least significant first. -/
def wordsOfNat : Nat → Nat → List Word
  | 0, _ => []
  | n + 1, w => BitVec.ofNat 32 (w % 2 ^ 32) :: wordsOfNat n (w / 2 ^ 32)

/-- The stream words of the command whose bits are the low `nbits` bits of `w`: CMD in bits 31..0, ARG in bits 95..32,
record words above; every bit above `nbits` is 0, and a ROI's record is filled up with zero words to its RECLEN. -/
def commandWords (nbits w : Nat) : List Word :=
  let ws := wordsOfNat (max 3 ((nbits + 31) / 32)) (w % 2 ^ nbits)
  match ws with
  | cmd :: argLow :: argHigh :: record =>
    if cmdOpcode cmd = 0x05 then
      cmd :: argLow :: argHigh :: (record.take argLow.toNat ++ List.replicate (argLow.toNat - record.length) 0)
    else [cmd, argLow, argHigh]
  | _ => ws

/-- The command the decoder reads from the bits of `w` (none where it refuses the opcode). -/
def decodeTableWord (nbits w : Nat) : Option Instr :=
  match decode (commandWords nbits w) with
  | .instr i _ => some i
  | .badOpcode _ => none
  | .incomplete => none

end Sys2Proof
end

