-- ==== Sys2Proof/Config.lean ====
section
/-! DEFINITION. What one device fixes: the construction parameters of 00_scope.md R9, as plain data that the state
carries unchanged (`Params`; log entries 1 and 2), and the constants that nothing in Lean can evaluate: the
exponential P19 and the values the spec gives no operation for. -/

namespace Sys2Proof

/-- The OPEN construction parameters of 00_scope.md R9 that are plain data. NUM_VS (P1) is the number of contexts of
the state; EXP (P19) is `Config.expBits` and `Config.expNonposBits`; P7, P16, P17 and P18 are decided by the spec (Machine/NumOps.lean and
Machine/Smoother.lean). A table by binning holds its value for `B` at place `B - 1`. The legal ranges are
`Params.legal` (log entry 11). -/
structure Params where
  /-- P2, 1..65535. -/
  maxRows : Fin 65536
  /-- P3, 1..65535. -/
  maxCols : Fin 65536
  /-- P4, 1..32. -/
  rawBits : Fin 33
  /-- P5, the HDR saturation threshold. -/
  satThresh : NUM
  /-- P6, KERNEL[0]. -/
  kernel0 : List NUM
  /-- P6, KERNEL[1]. -/
  kernel1 : List NUM
  /-- P6, KERNEL[2]. -/
  kernel2 : List NUM
  /-- P8 by binning. -/
  ghostW : List Nat
  /-- P9. -/
  ghostTol : NUM
  /-- P10 by binning. -/
  medWStripe : List Nat
  /-- P11 by binning. -/
  medWGrid : List Nat
  /-- P12 by level 1..5: (W, NEED). -/
  nnTable : List (Nat × Nat)
  /-- P13. -/
  nnAbsTol : NUM
  /-- P14. -/
  nnPropTol : NUM
  /-- P15. -/
  gaussSigma : NUM
deriving DecidableEq, Repr

/-- P19 EXP above 0, OPEN: "EXP must return a finite NUM >= 0" (42_frame_assembler.md R230), so its value is a bit
pattern below that of +infinity. It has no body: nothing here may be proved of its values but that (log entry 5). -/
opaque Config.expBits : NUM → Fin 0x7FF0000000000000

/-- P19 EXP at or below 0, OPEN: "EXP(x) <= 2 for x <= 0" (93_implementation_defined.md, section 2, stripe-mode bounds,
item 2; the bound that 60_exceptions.md R405 rests on), so its value is a bit pattern up to that of 2.0. It has no body
(log entry 5). -/
opaque Config.expNonposBits : NUM → Fin 0x4000000000000001

/-- Sign and payload of the NaN an operation delivers. IEEE 754 leaves them open and the spec says no rule produces a
NaN from valid inputs (00_scope.md R14): a free value (log entry 6). -/
opaque Config.nanPayload : BitVec 52

/-- What `rhaz` answers outside its domain: 00_scope.md R16 defines it for finite values only (log entry 6). -/
opaque Config.rhazOutside : NUM → Int

/-- What `fmod` answers outside its domain: 00_scope.md R17 defines it for finite x >= 0 and y > 0 only (log entry 6). -/
opaque Config.fmodOutside : NUM → NUM → NUM

/-- The parameters of the device that `State.reset` is. DESIGN CHOICE, unsafe (log entry 2): the OPEN values of
00_scope.md R9 are those of the spec's test configuration (95_test_vectors.md, first table). -/
def Config.resetParams : Params where
  maxRows := 8
  maxCols := 8
  rawBits := 16
  satThresh := ⟨0x40ED4C0000000000⟩
  kernel0 := [⟨0x3FD0000000000000⟩, ⟨0x3FE0000000000000⟩, ⟨0x3FD0000000000000⟩]
  kernel1 := [⟨0x3FB0000000000000⟩, ⟨0x3FD0000000000000⟩, ⟨0x3FD8000000000000⟩, ⟨0x3FD0000000000000⟩,
    ⟨0x3FB0000000000000⟩]
  kernel2 := [⟨0x3FB0000000000000⟩, ⟨0x3FC0000000000000⟩, ⟨0x3FC8000000000000⟩, ⟨0x3FD0000000000000⟩,
    ⟨0x3FC8000000000000⟩, ⟨0x3FC0000000000000⟩, ⟨0x3FB0000000000000⟩]
  ghostW := List.replicate 255 3
  ghostTol := ⟨0x3FF0000000000000⟩
  medWStripe := List.replicate 255 3
  medWGrid := List.replicate 255 3
  nnTable := [(3, 1), (3, 2), (3, 3), (3, 4), (3, 5)]
  nnAbsTol := ⟨0x3FB999999999999A⟩
  nnPropTol := ⟨0x3FA999999999999A⟩
  gaussSigma := ⟨0x3FF0000000000000⟩

/-- P1 NUM_VS of the device that `State.reset` is. DESIGN CHOICE, unsafe (log entry 2): the test configuration's. -/
def Config.resetNumVs : Nat := 2

end Sys2Proof
end

