-- ==== Sys2Proof/Machine/State.lean ====
section
/-! DEFINITION. The state of the block (10_state.md R30 to R54), as plain data, and the state after power-on reset
(70_reset_and_hazards.md R430, 10_state.md R54). `resp` and `stream` are the two ends of the command interface: the
last response the host received and the words the host has sent (log entries 3 and 4). -/

namespace Sys2Proof.Machine

/-- RESULT (30_encoding.md R107). Codes 5 to 15 are never returned. -/
inductive Result where
  | ok
  | emit
  | skip
  | fatal
  | reject
deriving DecidableEq, Repr

/-- REASON (30_encoding.md R108). Every code that is not listed is never returned. -/
inductive Reason where
  | none
  | hdrStored
  | noFirstRoi
  | completeWithoutFirst
  | badLength
  | hdrReserved
  | badVsid
  | badGeometry
  | badFreq
  | rawRange
  | frameMismatch
  | stripeOverflow
  | hdrShape
  | badNrot
  | badBinning
  | badOpcode
  | badReg
  | readOnly
  | illegalValue
  | badVs
  | badIndex
  | reservedField
  | noOutput
deriving DecidableEq, Repr

/-- RESP (30_encoding.md R106). -/
structure Response where
  result : Result
  reason : Reason
  data : BitVec 64
deriving DecidableEq, Repr

/-- The two frame modes (10_state.md R43): 0 grid, 1 stripe. -/
inductive FrameMode where
  | grid
  | stripe
deriving DecidableEq, Repr

/-- The header of a ROI record (30_encoding.md R120), reserved bits and words left out: a stored or assembled record
has passed 40_commands.md R157, which requires them zero (log entry 14). -/
structure RoiHeader where
  vsid : BitVec 4
  firstOfFrame : Bool
  frameCompleted : Bool
  hdrDisabled : Bool
  prevSaturated : Bool
  mode : FrameMode
  tapAccum : Bool
  nrot : BitVec 2
  binning : BitVec 8
  startRow : BitVec 16
  nRows : BitVec 16
  winRow0 : BitVec 16
  winNrows : BitVec 16
  winCol0 : BitVec 16
  winNcols : BitVec 16
  n0 : BitVec 16
  n1 : BitVec 16
  freq0 : NUM
  freq1 : NUM
  payloadLen : Word
deriving DecidableEq, Repr

/-- A ROI record as a value (40_commands.md R156): its header and its payload words, in the order of 30_encoding.md
R121. -/
structure RoiRecord where
  header : RoiHeader
  payload : List Word
deriving DecidableEq, Repr

/-- The frame descriptor VS[v].fd (10_state.md R43). -/
structure FrameDesc where
  mode : FrameMode
  /-- `B`, the binning factor, 1..255 (0 at reset). -/
  bin : BitVec 8
  winRow0 : BitVec 16
  winNrows : BitVec 16
  winCol0 : BitVec 16
  winNcols : BitVec 16
  n0 : BitVec 16
  n1 : BitVec 16
  f0 : NUM
  f1 : NUM
  sRow0 : BitVec 16
  sNrows : BitVec 16
deriving DecidableEq, Repr

/-- The coordinate descriptor VS[v].desc (10_state.md R48). -/
structure Descriptor where
  outRows : BitVec 16
  outCols : BitVec 16
  topRow : BitVec 16
  leftCol : BitVec 16
  rowStep : BitVec 16
  colStep : BitVec 16
deriving DecidableEq, Repr

/-- Everything one virtual sensor `v` owns: REG[v], VS[v], OUT[v] and PMASK[v] (10_state.md R53). Two-dimensional
maps are indexed by `pixKey` (Machine/Memory.lean), `active` by its row. -/
structure Context where
  /-- REG[v].RANGE_OFFSET (R34). -/
  rangeOffset : NUM
  /-- REG[v].RANGE_LIMIT (R35). -/
  rangeLimit : NUM
  /-- REG[v].FRAME_COUNT (R37). -/
  frameCount : BitVec 32
  /-- VS[v].frame_open (R40). -/
  frameOpen : Bool
  /-- VS[v].hdr_prev (R41). -/
  hdrPrev : Option RoiRecord
  /-- VS[v].hdr_corrected (R42). -/
  hdrCorrected : Bool
  /-- VS[v].fd (R43). -/
  fd : FrameDesc
  /-- VS[v].active (R44); unlisted rows read 0. -/
  active : Memory Bool
  /-- VS[v].raw[0] (R45); unlisted pixels read (+0.0, +0.0, +0.0). -/
  raw0 : Memory Taps
  /-- VS[v].raw[1] (R45). -/
  raw1 : Memory Taps
  /-- VS[v].vote (R46); unlisted pixels read -infinity. -/
  vote : Memory NUM
  /-- VS[v].stripe_count, 0..MAX_ROWS (R47). -/
  stripeCount : Nat
  /-- VS[v].srow[0] (R47). -/
  srow0 : Memory Taps
  /-- VS[v].srow[1] (R47). -/
  srow1 : Memory Taps
  /-- VS[v].snorm (R47); unlisted entries read +0.0. -/
  snorm : Memory NUM
  /-- VS[v].has_output (R48). -/
  hasOutput : Bool
  /-- OUT[v].range (R48); unlisted entries read 0. -/
  outRange : Memory (BitVec 16)
  /-- OUT[v].signal (R48). -/
  outSignal : Memory (BitVec 16)
  /-- OUT[v].background (R48). -/
  outBackground : Memory (BitVec 16)
  /-- OUT[v].snr (R48). -/
  outSnr : Memory (BitVec 16)
  /-- VS[v].desc (R48). -/
  desc : Descriptor
  /-- PMASK[v] (R49); unlisted bits read 1. -/
  pmask : Memory Bool
  /-- VS[v].last_result (R50). -/
  lastResult : Result
  /-- VS[v].last_reason (R50). -/
  lastReason : Reason
  /-- VS[v].fatal_sticky (R50). -/
  fatalSticky : Bool
deriving DecidableEq, Repr

/-- The state of the block. -/
structure State where
  /-- The construction parameters P2 to P6 and P8 to P15 (00_scope.md R9), of which MAX_ROWS, MAX_COLS and RAW_BITS are
  readable through the PARAM registers (10_state.md R38). No step changes them (log entry 1). -/
  params : Params
  /-- CFG.CTRL (R32). -/
  ctrl : BitVec 32
  /-- CFG.SNR_THRESHOLD (R33). -/
  snrThreshold : NUM
  /-- One context per virtual sensor; there are NUM_VS of them (P1). -/
  ctxs : List Context
  /-- The response to the last command that completed, none before the first (30_encoding.md R106; log entry 4). -/
  resp : Option Response
  /-- The words the host has sent and the engine has not read (20_memory.md R80, the CMD stream; log entry 3). -/
  stream : List Word
deriving DecidableEq, Repr

/-- NUM_VS (00_scope.md R9 P1). -/
def State.numVs (s : State) : Nat := s.ctxs.length

/-- How a step can stop with a fault: not at all. "The block has no trap, vector or handler. Every condition a command
meets is reported in that command's response" (60_exceptions.md R400). A type with no value is the safe reading: no
run of the model ends where the block goes on (log entry 12). -/
inductive Fault where
deriving DecidableEq, Repr

/-- Why the model gives a command no meaning. -/
inductive Refusal where
  /-- Raised by an arm of `exec` for a command that is not modelled yet; safe. No arm raises it. -/
  | notModelled (mnemonic : String)
deriving DecidableEq, Repr

/-- VS[v].fd at reset: "every field 0 (f0 and f1 +0.0)" (10_state.md R43). -/
def FrameDesc.reset : FrameDesc where
  mode := .grid
  bin := 0
  winRow0 := 0
  winNrows := 0
  winCol0 := 0
  winNcols := 0
  n0 := 0
  n1 := 0
  f0 := ⟨0⟩
  f1 := ⟨0⟩
  sRow0 := 0
  sNrows := 0

/-- VS[v].desc at reset (10_state.md R48). -/
def Descriptor.reset : Descriptor where
  outRows := 0
  outCols := 0
  topRow := 0
  leftCol := 0
  rowStep := 0
  colStep := 0

/-- One virtual sensor at reset (10_state.md R54). Every map lists nothing: each entry holds its reset value. -/
def Context.reset : Context where
  rangeOffset := ⟨0⟩
  rangeLimit := ⟨0x7FF0000000000000⟩
  frameCount := 0
  frameOpen := false
  hdrPrev := none
  hdrCorrected := false
  fd := FrameDesc.reset
  active := []
  raw0 := []
  raw1 := []
  vote := []
  stripeCount := 0
  srow0 := []
  srow1 := []
  snorm := []
  hasOutput := false
  outRange := []
  outSignal := []
  outBackground := []
  outSnr := []
  desc := Descriptor.reset
  pmask := []
  lastResult := .ok
  lastReason := .none
  fatalSticky := false

/-- The power-on state of a device with parameters `p` and `n` virtual sensors (10_state.md R54). -/
def State.powerOn (p : Params) (n : Nat) : State where
  params := p
  ctrl := 0
  snrThreshold := ⟨0⟩
  ctxs := List.replicate n Context.reset
  resp := none
  stream := []

/-- The machine right after reset: the power-on state of the device of log entry 2. -/
def State.reset : State := State.powerOn Config.resetParams Config.resetNumVs

end Sys2Proof.Machine
end

