-- ==== Sys2Proof/Machine/NumOps.lean ====
section
/-! DEFINITION. Binary64 arithmetic (00_scope.md R14 to R18), computed on exact integers and rounded once at the end.
A finite value is `(-1)^neg * m * 2^e` for a natural `m` and an integer `e`. -/

namespace Sys2Proof

/-- A NUM taken apart. -/
inductive Unpacked where
  | nan
  | inf (neg : Bool)
  /-- `(-1)^neg * m * 2^e`. -/
  | fin (neg : Bool) (m : Nat) (e : Int)
deriving DecidableEq, Repr

/-- The bit fields of IEEE 754 binary64: sign bit 63, exponent bits 62..52, fraction bits 51..0. -/
def NUM.unpack (x : NUM) : Unpacked :=
  let n : Nat := x.bits.toNat
  let neg := n / 2 ^ 63 == 1
  let ex : Nat := n / 2 ^ 52 % 2048
  let fr : Nat := n % 2 ^ 52
  if ex = 2047 then (if fr = 0 then .inf neg else .nan)
  else if ex = 0 then .fin neg fr (-1074)
  else .fin neg (2 ^ 52 + fr) ((ex : Int) - 1075)

/-- A bit pattern with its sign bit. -/
def NUM.signed (neg : Bool) (mag : Nat) : NUM := ⟨BitVec.ofNat 64 (if neg then 2 ^ 63 + mag else mag)⟩

/-- A zero of the given sign. -/
def NUM.zeroOf (neg : Bool) : NUM := NUM.signed neg 0

/-- An infinity of the given sign. -/
def NUM.infOf (neg : Bool) : NUM := NUM.signed neg 0x7FF0000000000000

/-- The NaN an operation delivers: quiet, with a sign and payload nothing is known of (log entry 6). -/
def NUM.nan : NUM :=
  NUM.signed (Config.nanPayload.getLsbD 51) (0x7FF8000000000000 + Config.nanPayload.toNat % 2 ^ 51)

/-- `m / 2^k` rounded to nearest, ties to even. -/
def roundShift (m k : Nat) : Nat :=
  let d := 2 ^ k
  let t := m / d
  let r := m % d
  if d < 2 * r ∨ (2 * r = d ∧ t % 2 = 1) then t + 1 else t

/-- The NUM nearest to `(-1)^neg * m * 2^e`, ties to even, overflow to infinity (00_scope.md R14). `q` is the
exponent of the result's last place; a carry out of the 53 bits moves into the exponent field by the addition. -/
def NUM.round (neg : Bool) (m : Nat) (e : Int) : NUM :=
  if m = 0 then NUM.zeroOf neg
  else
    let q : Int := max ((m.log2 : Int) + e - 52) (-1074)
    let t := if q ≤ e then m * 2 ^ (e - q).toNat else roundShift m (q - e).toNat
    let mag := (q + 1074).toNat * 2 ^ 52 + t
    if 0x7FF0000000000000 ≤ mag then NUM.infOf neg else NUM.signed neg mag

/-- The integer `±m * 2^(e - e')` of a finite value counted in units of `2^e'`, for `e' ≤ e`. -/
def unitsOf (neg : Bool) (m : Nat) (e e' : Int) : Int :=
  let a : Int := (m * 2 ^ (e - e').toNat : Nat)
  if neg then -a else a

/-- `x + y` (00_scope.md R14). An exact zero sum is +0.0 unless both operands are negative zeros. -/
def NUM.add (x y : NUM) : NUM :=
  match x.unpack, y.unpack with
  | .nan, _ => NUM.nan
  | _, .nan => NUM.nan
  | .inf a, .inf b => if a = b then NUM.infOf a else NUM.nan
  | .inf a, .fin .. => NUM.infOf a
  | .fin .., .inf b => NUM.infOf b
  | .fin a m1 e1, .fin b m2 e2 =>
    let e := min e1 e2
    let z := unitsOf a m1 e1 e + unitsOf b m2 e2 e
    if z = 0 then NUM.zeroOf (a && b) else NUM.round (decide (z < 0)) z.natAbs e

/-- Negation flips the sign bit; it is exact (00_scope.md R14). -/
def NUM.neg (x : NUM) : NUM := ⟨x.bits ^^^ 0x8000000000000000#64⟩

/-- `abs` clears the sign bit (46_artifact_filters.md R331). -/
def NUM.abs (x : NUM) : NUM := ⟨x.bits &&& 0x7FFFFFFFFFFFFFFF#64⟩

/-- `x - y` (00_scope.md R14). -/
def NUM.sub (x y : NUM) : NUM := x.add y.neg

/-- `x * y` (00_scope.md R14). -/
def NUM.mul (x y : NUM) : NUM :=
  match x.unpack, y.unpack with
  | .nan, _ => NUM.nan
  | _, .nan => NUM.nan
  | .inf a, .inf b => NUM.infOf (a != b)
  | .inf a, .fin b m _ => if m = 0 then NUM.nan else NUM.infOf (a != b)
  | .fin a m _, .inf b => if m = 0 then NUM.nan else NUM.infOf (a != b)
  | .fin a m1 e1, .fin b m2 e2 => NUM.round (a != b) (m1 * m2) (e1 + e2)

/-- `m1 / m2` to at least 55 bits, with one bit more that says whether anything was left over; `k` is the scaling. -/
def stickyQuotient (m1 m2 k : Nat) : Nat :=
  2 * (m1 * 2 ^ k / m2) + (if m1 * 2 ^ k % m2 = 0 then 0 else 1)

/-- `x / y` (00_scope.md R14). -/
def NUM.div (x y : NUM) : NUM :=
  match x.unpack, y.unpack with
  | .nan, _ => NUM.nan
  | _, .nan => NUM.nan
  | .inf _, .inf _ => NUM.nan
  | .inf a, .fin b _ _ => NUM.infOf (a != b)
  | .fin a _ _, .inf b => NUM.zeroOf (a != b)
  | .fin a m1 e1, .fin b m2 e2 =>
    if m2 = 0 then (if m1 = 0 then NUM.nan else NUM.infOf (a != b))
    else
      let k := 56 + m2.log2 - m1.log2
      NUM.round (a != b) (stickyQuotient m1 m2 k) (e1 - e2 - k - 1)

/-- The integer square root of `n`, bit by bit from bit `k - 1` down, with the bits above already in `r`. -/
def isqrtBits (n : Nat) : Nat → Nat → Nat
  | 0, r => r
  | k + 1, r => if (r + 2 ^ k) * (r + 2 ^ k) ≤ n then isqrtBits n k (r + 2 ^ k) else isqrtBits n k r

/-- The square root of `n < 2^114` rounded down, with one bit more that says whether anything was left over. -/
def stickySqrt (n : Nat) : Nat :=
  let r := isqrtBits n 57 0
  2 * r + (if r * r = n then 0 else 1)

/-- The correctly rounded square root (00_scope.md R14). The operand is scaled to 111 or 112 bits, with an even
exponent. -/
def NUM.sqrt (x : NUM) : NUM :=
  match x.unpack with
  | .nan => NUM.nan
  | .inf neg => if neg then NUM.nan else NUM.infOf false
  | .fin neg m e =>
    if m = 0 then NUM.zeroOf neg
    else if neg then NUM.nan
    else
      let k := 110 - m.log2 + ((e - (110 - m.log2 : Nat)) % 2).toNat
      NUM.round false (stickySqrt (m * 2 ^ k)) ((e - k) / 2 - 1)

/-- Whether the pattern is a NaN. -/
def NUM.isNaN (x : NUM) : Bool := 0x7FF0000000000000 < x.bits.toNat % 2 ^ 63

/-- Whether the pattern is neither a NaN nor an infinity. -/
def NUM.isFinite (x : NUM) : Bool := x.bits.toNat % 2 ^ 63 < 0x7FF0000000000000

/-- A number that orders the values that are not NaN as their reals are ordered; both zeros have the number 0. -/
def NUM.order (x : NUM) : Int :=
  let n := x.bits.toNat
  if n < 2 ^ 63 then (n : Int) else -((n - 2 ^ 63 : Nat) : Int)

/-- `x < y`, false when either is a NaN. -/
def NUM.lt (x y : NUM) : Bool := !x.isNaN && !y.isNaN && decide (x.order < y.order)

/-- `x ≤ y`, false when either is a NaN. -/
def NUM.le (x y : NUM) : Bool := !x.isNaN && !y.isNaN && decide (x.order ≤ y.order)

/-- `x = y` as values: the two zeros are equal. -/
def NUM.eqv (x y : NUM) : Bool := x.le y && y.le x

/-- `min` (00_scope.md R14). DESIGN CHOICE (log entry 8): of two zeros, and when an operand is a NaN, the first
operand. -/
def NUM.min (x y : NUM) : NUM := if y.lt x then y else x

/-- `max` (00_scope.md R14). DESIGN CHOICE (log entry 8): of two zeros, and when an operand is a NaN, the first
operand. -/
def NUM.max (x y : NUM) : NUM := if x.lt y then y else x

/-- `num(n)` (00_scope.md R15). -/
def NUM.ofNat (n : Nat) : NUM := NUM.round false n 0

/-- +0.0. -/
def NUM.zero : NUM := ⟨0⟩
/-- 0.5. -/
def NUM.half : NUM := ⟨0x3FE0000000000000⟩
/-- -0.5. -/
def NUM.negHalf : NUM := ⟨0xBFE0000000000000⟩
/-- 1.0. -/
def NUM.one : NUM := ⟨0x3FF0000000000000⟩
/-- 2.0. -/
def NUM.two : NUM := ⟨0x4000000000000000⟩
/-- 1024.0. -/
def NUM.n1024 : NUM := ⟨0x4090000000000000⟩
/-- 1/3, the nearest NUM (00_scope.md R15). -/
def NUM.third : NUM := ⟨0x3FD5555555555555⟩
/-- 2/3, the nearest NUM (00_scope.md R15). -/
def NUM.twoThirds : NUM := ⟨0x3FE5555555555555⟩
/-- +infinity. -/
def NUM.posInf : NUM := ⟨0x7FF0000000000000⟩
/-- -infinity. -/
def NUM.negInf : NUM := ⟨0xFFF0000000000000⟩
/-- P16 C_LIGHT = 299792458.0 (00_scope.md R9; log entry 9). -/
def NUM.cLight : NUM := ⟨0x41B1DE784A000000⟩
/-- P17 EPS = fl(1 / 65535) (00_scope.md R9). -/
def NUM.eps : NUM := ⟨0x3EF0001000100010⟩
/-- P18 PROXY_C_FLOOR = EPS (00_scope.md R9). -/
def NUM.proxyCFloor : NUM := NUM.eps

/-- P19 EXP: a finite NUM that is at least 0 (42_frame_assembler.md R230), and at most 2.0 for `x ≤ 0`
(93_implementation_defined.md, section 2; log entry 5). -/
def NUM.exp (x : NUM) : NUM :=
  if x.le NUM.zero then ⟨BitVec.ofNat 64 (Config.expNonposBits x).val⟩ else ⟨BitVec.ofNat 64 (Config.expBits x).val⟩

/-- `m * 2^e` rounded to an integer, half away from zero, on the exact value. -/
def rhazNat (m : Nat) (e : Int) : Nat :=
  if 0 ≤ e then m * 2 ^ e.toNat else (2 * m + 2 ^ (-e).toNat) / (2 * 2 ^ (-e).toNat)

/-- `rhaz(x)` (00_scope.md R16); outside its domain a free value (log entry 6). -/
def NUM.rhaz (x : NUM) : Int :=
  match x.unpack with
  | .nan => Config.rhazOutside x
  | .inf _ => Config.rhazOutside x
  | .fin neg m e => if neg then -(rhazNat m e : Int) else (rhazNat m e : Int)

/-- `fmod(x, y)` for finite `x ≥ 0` and `y > 0` (00_scope.md R17): the remainder of the two values counted in units of
the smaller of their last places, which needs no rounding. Outside its domain a free value (log entry 6). DESIGN
CHOICE (log entry 8): a remainder that is exactly 0 is +0.0, for `x = -0.0` too. -/
def NUM.fmod (x y : NUM) : NUM :=
  match x.unpack, y.unpack with
  | .fin a m1 e1, .fin b m2 e2 =>
    if m2 = 0 ∨ b = true ∨ (a = true ∧ m1 ≠ 0) then Config.fmodOutside x y
    else
      let e := Min.min e1 e2
      NUM.round false ((m1 * 2 ^ (e1 - e).toNat) % (m2 * 2 ^ (e2 - e).toNat)) e
  | _, _ => Config.fmodOutside x y

/-- `clip16(n)` (00_scope.md R17), as a 16-bit word. -/
def clip16 (n : Int) : BitVec 16 := BitVec.ofNat 16 (Min.min (Max.max n 0) 65535).toNat

/-- Insertion into a list that rises. DESIGN CHOICE (log entry 8): two zeros keep their order, a NaN is put first, and an
element is put before a NaN it meets. -/
def NUM.insertSorted (x : NUM) : List NUM → List NUM
  | [] => [x]
  | y :: ys => if y.lt x then y :: NUM.insertSorted x ys else x :: y :: ys

/-- A list sorted to rise. -/
def NUM.sorted : List NUM → List NUM
  | [] => []
  | x :: xs => NUM.insertSorted x (NUM.sorted xs)

/-- `median(S)` of an odd count (00_scope.md R18): the element at position `(n - 1) / 2`. -/
def NUM.median (xs : List NUM) : NUM := (NUM.sorted xs).getD ((xs.length - 1) / 2) NUM.zero

/-- `acc = +0.0; for u = 0 .. n-1: acc = acc + f(u)`, the order of every sum of the spec (93_implementation_defined.md
section 3). -/
def NUM.sumUp (n : Nat) (f : Nat → NUM) : NUM := (List.range n).foldl (fun acc u => acc.add (f u)) NUM.zero

end Sys2Proof
end

