-- ==== Sys2Proof/Machine/Memory.lean ====
section
/-! DEFINITION. Reading and writing the stored maps, their canonical form, and building the transient grids. -/

namespace Sys2Proof

/-- The index of entry `(r, c)` of a two-dimensional map: row and column as the two 32-bit halves of ARG (30_encoding.md
R101), so that no two pixels share an index. -/
def pixKey (r c : Nat) : Nat := r * 2 ^ 32 + c

/-- The canonical form from index `lo` on: indices strictly rise, and no entry equals `d`, which an unlisted index
reads as. -/
def Memory.wfFrom {α : Type} [DecidableEq α] (d : α) (lo : Nat) : Memory α → Bool
  | [] => true
  | (k, v) :: rest => decide (lo ≤ k) && decide (v ≠ d) && Memory.wfFrom d (k + 1) rest

/-- The canonical form of a map whose unlisted entries read as `d`. -/
def Memory.wf {α : Type} [DecidableEq α] (d : α) (m : Memory α) : Bool := Memory.wfFrom d 0 m

/-- Read entry `k`; an unlisted one reads as `d`. -/
def Memory.read {α : Type} (d : α) : Memory α → Nat → α
  | [], _ => d
  | (k', v) :: rest, k => if k' = k then v else Memory.read d rest k

/-- Write entry `k`, keeping the canonical form: writing `d` removes the entry. -/
def Memory.write {α : Type} [DecidableEq α] (d : α) : Memory α → Nat → α → Memory α
  | [], k, v => if v = d then [] else [(k, v)]
  | (k', v') :: rest, k, v =>
    if k < k' then (if v = d then (k', v') :: rest else (k, v) :: (k', v') :: rest)
    else if k = k' then (if v = d then rest else (k, v) :: rest)
    else (k', v') :: Memory.write d rest k v

/-- Write entry `(r, c)` of a map for every `c < w`. -/
def Memory.writeRow {α : Type} [DecidableEq α] (d : α) (m : Memory α) (r w : Nat) (f : Nat → α) : Memory α :=
  (List.range w).foldl (fun acc c => Memory.write d acc (pixKey r c) (f c)) m

/-- The map whose entry `(r, c)` is `f r c` for `r < h`, `c < w`, and `d` elsewhere. -/
def Memory.ofPixels {α : Type} [DecidableEq α] (d : α) (h w : Nat) (f : Nat → Nat → α) : Memory α :=
  (List.range h).foldl (fun acc r => Memory.writeRow d acc r w (f r)) []

/-- The transient map with entry `f r c` at `(r, c)`, `r < h`, `c < w`. -/
def Grid.build {α : Type} (h w : Nat) (f : Nat → Nat → α) : Grid α :=
  (List.range h).map fun r => (List.range w).map fun c => f r c

/-- Entry `(r, c)` of a transient map; `d` outside it. -/
def Grid.read {α : Type} (d : α) (g : Grid α) (r c : Nat) : α := (g.getD r []).getD c d

/-- The triple (+0.0, +0.0, +0.0). -/
def Taps.zero : Taps := ⟨NUM.zero, NUM.zero, NUM.zero⟩

/-- `t[k]` (00_scope.md R12). -/
def Taps.tap (t : Taps) (k : Nat) : NUM :=
  match k with
  | 0 => t.t0
  | 1 => t.t1
  | _ => t.t2

/-- The triple whose tap `k` is `f k`. -/
def Taps.build (f : Nat → NUM) : Taps := ⟨f 0, f 1, f 2⟩

/-- Entry `(r, c)` of a transient tap map. -/
def Grid.taps (g : Grid Taps) (r c : Nat) : Taps := Grid.read Taps.zero g r c

/-- Entry `(r, c)` of a transient NUM map. -/
def Grid.num (g : Grid NUM) (r c : Nat) : NUM := Grid.read NUM.zero g r c

end Sys2Proof
end

