-- ==== Sys2Proof/Machine/Flags.lean ====
section
/-! DEFINITION. The bit fields of the registers: CTRL (10_state.md R32, 30_encoding.md R111), the STATUS view
(10_state.md R36, 30_encoding.md R113) and the codes of RESULT and REASON (30_encoding.md R107, R108). The block has no
arithmetic flags (10_state.md R52). -/

namespace Sys2Proof.Machine

/-- RESULT codes (30_encoding.md R107). -/
def Result.code : Result → BitVec 4
  | .ok => 0
  | .emit => 1
  | .skip => 2
  | .fatal => 3
  | .reject => 4

/-- REASON codes (30_encoding.md R108). -/
def Reason.code : Reason → BitVec 8
  | .none => 0x00
  | .hdrStored => 0x10
  | .noFirstRoi => 0x11
  | .completeWithoutFirst => 0x12
  | .badLength => 0x20
  | .hdrReserved => 0x21
  | .badVsid => 0x22
  | .badGeometry => 0x23
  | .badFreq => 0x24
  | .rawRange => 0x25
  | .frameMismatch => 0x26
  | .stripeOverflow => 0x27
  | .hdrShape => 0x28
  | .badNrot => 0x29
  | .badBinning => 0x2A
  | .badOpcode => 0x30
  | .badReg => 0x31
  | .readOnly => 0x32
  | .illegalValue => 0x33
  | .badVs => 0x34
  | .badIndex => 0x35
  | .reservedField => 0x36
  | .noOutput => 0x37

/-- CTRL[1:0] STRIPE_WINDOW: 0 RECT, 1 GAUSSIAN, 2 SNR_WEIGHTED. -/
def ctrlStripeWindow (ctrl : BitVec 32) : BitVec 2 := ctrl.extractLsb' 0 2
/-- CTRL[2] HDR_ENABLED. -/
def ctrlHdrEnabled (ctrl : BitVec 32) : Bool := ctrl.getLsbD 2
/-- CTRL[5:3] NN_LEVEL. -/
def ctrlNnLevel (ctrl : BitVec 32) : BitVec 3 := ctrl.extractLsb' 3 3
/-- CTRL[6] PERFORM_MEDIAN. -/
def ctrlPerformMedian (ctrl : BitVec 32) : Bool := ctrl.getLsbD 6
/-- CTRL[7] PERFORM_MINMAX. -/
def ctrlPerformMinmax (ctrl : BitVec 32) : Bool := ctrl.getLsbD 7
/-- CTRL[8] DISABLE_RANGE_MASKING. -/
def ctrlDisableRangeMasking (ctrl : BitVec 32) : Bool := ctrl.getLsbD 8
/-- CTRL[9] DISABLE_RANGE_LIMIT. -/
def ctrlDisableRangeLimit (ctrl : BitVec 32) : Bool := ctrl.getLsbD 9

/-- 30_encoding.md R111: `x[63:10] = 0`, `x[1:0] ≠ 3` and `x[5:3] ≤ 5`. -/
def ctrlLegal (x : BitVec 64) : Bool :=
  x.extractLsb' 10 54 == 0 && x.extractLsb' 0 2 != 3 && (x.extractLsb' 3 3).toNat ≤ 5

/-- One bit as a bit vector. -/
def bit1 (b : Bool) : BitVec 1 := BitVec.ofBool b

/-- STATUS[5] FRAME_MODE: the open frame's mode, 0 when no frame is open (10_state.md R36). -/
def Context.frameModeBit (c : Context) : Bool := c.frameOpen && c.fd.mode == .stripe

/-- STATUS (10_state.md R36, 30_encoding.md R113), from bit 63 down to bit 0. -/
def Context.status (c : Context) : BitVec 64 :=
  (0 : BitVec 16) ++ BitVec.ofNat 16 c.stripeCount ++ (0 : BitVec 8) ++ c.lastReason.code ++ (0 : BitVec 4)
    ++ c.lastResult.code ++ (0 : BitVec 2) ++ bit1 c.frameModeBit ++ bit1 c.hasOutput ++ bit1 c.fatalSticky
    ++ bit1 c.hdrCorrected ++ bit1 c.hdrPrev.isSome ++ bit1 c.frameOpen

end Sys2Proof.Machine
end

