-- ==== Sys2Proof/Machine/Operands.lean ====
section
/-! DEFINITION. The operands of the commands: the register map (30_encoding.md R110), the pixel index in ARG (R101), the
selectors (R114, R115), and a ROI record's header and samples (R120, R121). -/

namespace Sys2Proof.Machine

/-- The registers of 30_encoding.md R110. -/
inductive RegId where
  | ctrl
  | snrThreshold
  | rangeOffset
  | rangeLimit
  | status
  | frameCount
  | paramNumVs
  | paramMaxRows
  | paramMaxCols
  | paramRawBits
deriving DecidableEq, Repr

/-- The register of a number (30_encoding.md R110); every other number is reserved (20_memory.md R93). -/
def regOfNumber (r : BitVec 16) : Option RegId :=
  match r.toNat with
  | 0x0000 => some .ctrl
  | 0x0001 => some .snrThreshold
  | 0x0010 => some .rangeOffset
  | 0x0011 => some .rangeLimit
  | 0x0020 => some .status
  | 0x0021 => some .frameCount
  | 0x0040 => some .paramNumVs
  | 0x0041 => some .paramMaxRows
  | 0x0042 => some .paramMaxCols
  | 0x0043 => some .paramRawBits
  | _ => none

/-- The scope column of 30_encoding.md R110. -/
def RegId.isGlobal : RegId → Bool
  | .ctrl | .snrThreshold | .paramNumVs | .paramMaxRows | .paramMaxCols | .paramRawBits => true
  | .rangeOffset | .rangeLimit | .status | .frameCount => false

/-- The access column of 30_encoding.md R110. -/
def RegId.isReadOnly : RegId → Bool
  | .status | .frameCount | .paramNumVs | .paramMaxRows | .paramMaxCols | .paramRawBits => true
  | .ctrl | .snrThreshold | .rangeOffset | .rangeLimit => false

/-- Whether a value may be written to a read-write register (10_state.md R32 to R35). -/
def RegId.legalValue (r : RegId) (x : BitVec 64) : Bool :=
  match r with
  | .ctrl => ctrlLegal x
  | .snrThreshold => !NUM.isNaN ⟨x⟩
  | .rangeOffset => NUM.isFinite ⟨x⟩
  | .rangeLimit => !NUM.isNaN ⟨x⟩
  | .status | .frameCount | .paramNumVs | .paramMaxRows | .paramMaxCols | .paramRawBits => false

/-- CMD.VS as an index. -/
def vsOf (f : CmdFields) : Nat := f.vs.toNat
/-- ARG[63:32] as a row (30_encoding.md R101). -/
def rowOf (f : CmdFields) : Nat := (f.arg.extractLsb' 32 32).toNat
/-- ARG[31:0] as a column (30_encoding.md R101). -/
def colOf (f : CmdFields) : Nat := (f.arg.extractLsb' 0 32).toNat

/-- Word `k` of a record. -/
def recWord (record : List Word) (k : Nat) : Word := record.getD k 0

/-- The header of a record (30_encoding.md R120); FREQ0 = (H6, H5) and FREQ1 = (H8, H7) (40_commands.md R156). -/
def headerOf (record : List Word) : RoiHeader :=
  let h0 := recWord record 0
  { vsid := h0.extractLsb' 0 4
    firstOfFrame := h0.getLsbD 4
    frameCompleted := h0.getLsbD 5
    hdrDisabled := h0.getLsbD 6
    prevSaturated := h0.getLsbD 7
    mode := if h0.getLsbD 8 then .stripe else .grid
    tapAccum := h0.getLsbD 9
    nrot := h0.extractLsb' 10 2
    binning := h0.extractLsb' 16 8
    startRow := (recWord record 1).extractLsb' 0 16
    nRows := (recWord record 1).extractLsb' 16 16
    winRow0 := (recWord record 2).extractLsb' 0 16
    winNrows := (recWord record 2).extractLsb' 16 16
    winCol0 := (recWord record 3).extractLsb' 0 16
    winNcols := (recWord record 3).extractLsb' 16 16
    n0 := (recWord record 4).extractLsb' 0 16
    n1 := (recWord record 4).extractLsb' 16 16
    freq0 := ⟨recWord record 6 ++ recWord record 5⟩
    freq1 := ⟨recWord record 8 ++ recWord record 7⟩
    payloadLen := recWord record 9 }

/-- `roi(rec)` (40_commands.md R156). -/
def roiOf (record : List Word) : RoiRecord := ⟨headerOf record, record.drop 12⟩

/-- 40_commands.md R157 step 3: the reserved header bits and words (30_encoding.md R120) are zero. -/
def reservedHeaderZero (record : List Word) : Bool :=
  (recWord record 0).extractLsb' 12 4 == 0 && (recWord record 0).extractLsb' 24 8 == 0
    && recWord record 10 == 0 && recWord record 11 == 0

/-- NROT as a number. -/
def RoiHeader.rotations (h : RoiHeader) : Nat := h.nrot.toNat
/-- N_ROWS as a number. -/
def RoiHeader.rows (h : RoiHeader) : Nat := h.nRows.toNat
/-- WIN_NCOLS as a number: the ROI's column count. -/
def RoiHeader.cols (h : RoiHeader) : Nat := h.winNcols.toNat
/-- BINNING as a number. -/
def RoiHeader.bin (h : RoiHeader) : Nat := h.binning.toNat

/-- The place in the payload of sample `(f, j, i, c, t)` (30_encoding.md R121). -/
def sampleIndex (h : RoiHeader) (f j i c t : Nat) : Nat :=
  (((f * h.rotations + j) * h.rows + i) * h.cols + c) * 3 + t

/-- `raw(f, j, i, c, t)` (30_encoding.md R121), as a natural number. -/
def RoiRecord.raw (roi : RoiRecord) (f j i c t : Nat) : Nat :=
  (roi.payload.getD (sampleIndex roi.header f j i c t) 0).toNat

end Sys2Proof.Machine
end

