-- ==== Sys2Proof/Machine/Ops.lean ====
section
/-! DEFINITION. The shared operations of the commands: answering, reaching a virtual sensor's context, the FATAL effect
(60_exceptions.md R403, this block's one way of taking an error) and the restart that recovers from it
(70_reset_and_hazards.md R432; the block has no return instruction, 60_exceptions.md R409), and reading and writing a
register. -/

namespace Sys2Proof.Machine

/-- `return Resp(result, reason, data)` (00_scope.md R13, 30_encoding.md R106). -/
def State.respond (s : State) (result : Result) (reason : Reason) (data : BitVec 64) : State :=
  { s with resp := some ⟨result, reason, data⟩ }

/-- A rejected command changes no state, and its DATA is 0 (60_exceptions.md R401). -/
def State.reject (s : State) (reason : Reason) : State := s.respond .reject reason 0

/-- `Resp(OK, NONE, data)`. -/
def State.answer (s : State) (data : BitVec 64) : State := s.respond .ok .none data

/-- The context of virtual sensor `v`. Every command first checks `v < NUM_VS`, so the default is never used (log entry
10). -/
def State.ctx (s : State) (v : Nat) : Context := s.ctxs.getD v Context.reset

/-- The state with the context of virtual sensor `v` replaced. -/
def State.setCtx (s : State) (v : Nat) (c : Context) : State := { s with ctxs := s.ctxs.set v c }

/-- `VS[v].last_result <- result; VS[v].last_reason <- reason` (40_commands.md R155). -/
def Context.record (c : Context) (result : Result) (reason : Reason) : Context :=
  { c with lastResult := result, lastReason := reason }

/-- `fatal(v, reason)` (60_exceptions.md R403): the open frame is aborted, the delay line emptied, the sticky bit set
and the result recorded. Buffers, outputs, registers and the mask are kept. -/
def Context.fatal (c : Context) (reason : Reason) : Context :=
  { c with
    frameOpen := false
    hdrPrev := none
    hdrCorrected := false
    fatalSticky := true
    lastResult := .fatal
    lastReason := reason }

/-- Restart of one context (70_reset_and_hazards.md R432): what VSRESET clears. It keeps RANGE_OFFSET, RANGE_LIMIT,
FRAME_COUNT, has_output, OUT, desc and PMASK. -/
def Context.restart (c : Context) : Context :=
  { c with
    frameOpen := false
    hdrCorrected := false
    fatalSticky := false
    hdrPrev := none
    fd := FrameDesc.reset
    active := []
    raw0 := []
    raw1 := []
    vote := []
    stripeCount := 0
    srow0 := []
    srow1 := []
    snorm := []
    lastResult := .ok
    lastReason := .none }

/-- Every piece of the block's state at its reset value (70_reset_and_hazards.md R430, R431). The construction
parameters are no state that reset changes, and the words the host has sent after this command are the host's. -/
def State.resetAll (s : State) : State :=
  { State.powerOn s.params s.numVs with resp := s.resp, stream := s.stream }

/-- The value of a register, zero-extended (40_commands.md R154); a PARAM register reads its parameter (30_encoding.md
R112). -/
def State.readReg (s : State) (r : RegId) (v : Nat) : BitVec 64 :=
  match r with
  | .ctrl => s.ctrl.setWidth 64
  | .snrThreshold => s.snrThreshold.bits
  | .rangeOffset => (s.ctx v).rangeOffset.bits
  | .rangeLimit => (s.ctx v).rangeLimit.bits
  | .status => (s.ctx v).status
  | .frameCount => (s.ctx v).frameCount.setWidth 64
  | .paramNumVs => BitVec.ofNat 64 s.numVs
  | .paramMaxRows => BitVec.ofNat 64 s.params.maxRows.val
  | .paramMaxCols => BitVec.ofNat 64 s.params.maxCols.val
  | .paramRawBits => BitVec.ofNat 64 s.params.rawBits.val

/-- The write of a legal value to a read-write register (40_commands.md R153); a read-only register is not written. -/
def State.writeReg (s : State) (r : RegId) (v : Nat) (x : BitVec 64) : State :=
  match r with
  | .ctrl => { s with ctrl := x.setWidth 32 }
  | .snrThreshold => { s with snrThreshold := ⟨x⟩ }
  | .rangeOffset => s.setCtx v { s.ctx v with rangeOffset := ⟨x⟩ }
  | .rangeLimit => s.setCtx v { s.ctx v with rangeLimit := ⟨x⟩ }
  | .status | .frameCount | .paramNumVs | .paramMaxRows | .paramMaxCols | .paramRawBits => s

/-- The checks WRREG and RDREG share, in the order of 40_commands.md R153 and R154; `none` when all pass. -/
def regAccessError (s : State) (f : CmdFields) (r : RegId) : Option Reason :=
  if r.isGlobal && f.vs != 0 then some .reservedField
  else if !r.isGlobal && decide (s.numVs ≤ vsOf f) then some .badVs
  else none

/-- `OUT[v].<map by m>[row][col]` (30_encoding.md R114). -/
def Context.outWord (c : Context) (m : Nat) (row col : Nat) : BitVec 16 :=
  match m with
  | 0 => Memory.read 0 c.outRange (pixKey row col)
  | 1 => Memory.read 0 c.outSignal (pixKey row col)
  | 2 => Memory.read 0 c.outBackground (pixKey row col)
  | _ => Memory.read 0 c.outSnr (pixKey row col)

/-- Field `sel` of a descriptor (30_encoding.md R115). -/
def Descriptor.field (d : Descriptor) (sel : Nat) : BitVec 16 :=
  match sel with
  | 0 => d.outRows
  | 1 => d.outCols
  | 2 => d.topRow
  | 3 => d.leftCol
  | 4 => d.rowStep
  | _ => d.colStep

/-- `PMASK[v][row][col]` (10_state.md R49). -/
def Context.maskBit (c : Context) (row col : Nat) : Bool := Memory.read true c.pmask (pixKey row col)

/-- `PMASK[v][row][col] <- b` (40_commands.md R164). -/
def Context.setMaskBit (c : Context) (row col : Nat) (b : Bool) : Context :=
  { c with pmask := Memory.write true c.pmask (pixKey row col) b }

end Sys2Proof.Machine
end

