-- ==== Sys2Proof/Machine/Control.lean ====
section
/-! DEFINITION. The control commands NOP, RESET, VSRESET, WRREG and RDREG (40_commands.md R150 to R154). Each begins with
the field checks of 30_encoding.md R104. -/

namespace Sys2Proof.Machine

/-- NOP (40_commands.md R150). -/
def nopState (f : CmdFields) (s : State) : State :=
  if f.vs != 0 || f.sel != 0 || f.imm != 0 || f.arg != 0 then s.reject .reservedField
  else s.answer 0

/-- RESET (40_commands.md R151). -/
def resetState (f : CmdFields) (s : State) : State :=
  if f.vs != 0 || f.sel != 0 || f.imm != 0 || f.arg != 0 then s.reject .reservedField
  else s.resetAll.answer 0

/-- VSRESET v (40_commands.md R152). -/
def vsresetState (f : CmdFields) (s : State) : State :=
  if f.sel != 0 || f.imm != 0 || f.arg != 0 then s.reject .reservedField
  else if s.numVs ≤ vsOf f then s.reject .badVs
  else (s.setCtx (vsOf f) (s.ctx (vsOf f)).restart).answer 0

/-- WRREG reg, v, value (40_commands.md R153); the order of the checks is log entry 13. -/
def wrregState (f : CmdFields) (s : State) : State :=
  if f.sel != 0 then s.reject .reservedField
  else
    match regOfNumber f.imm with
    | none => s.reject .badReg
    | some r =>
      match regAccessError s f r with
      | some reason => s.reject reason
      | none =>
        if r.isReadOnly then s.reject .readOnly
        else if !r.legalValue f.arg then s.reject .illegalValue
        else (s.writeReg r (vsOf f) f.arg).answer 0

/-- RDREG reg, v (40_commands.md R154); the order of the checks is log entry 13. -/
def rdregState (f : CmdFields) (s : State) : State :=
  if f.sel != 0 || f.arg != 0 then s.reject .reservedField
  else
    match regOfNumber f.imm with
    | none => s.reject .badReg
    | some r =>
      match regAccessError s f r with
      | some reason => s.reject reason
      | none => s.answer (s.readReg r (vsOf f))

/-- The meaning of NOP. -/
def execNop (f : CmdFields) (s : State) : Host.Outcome State Fault Refusal := .next (nopState f s)

/-- The meaning of RESET. -/
def execReset (f : CmdFields) (s : State) : Host.Outcome State Fault Refusal := .next (resetState f s)

/-- The meaning of VSRESET. -/
def execVsreset (f : CmdFields) (s : State) : Host.Outcome State Fault Refusal := .next (vsresetState f s)

/-- The meaning of WRREG. -/
def execWrreg (f : CmdFields) (s : State) : Host.Outcome State Fault Refusal := .next (wrregState f s)

/-- The meaning of RDREG. -/
def execRdreg (f : CmdFields) (s : State) : Host.Outcome State Fault Refusal := .next (rdregState f s)

end Sys2Proof.Machine
end

