-- ==== Sys2Proof/Machine/Readout.lean ====
section
/-! DEFINITION. Output and mask access: RDOUT, RDDESC, WRMASK and RDMASK (40_commands.md R162 to R165). Each begins with
the field checks of 30_encoding.md R104. -/

namespace Sys2Proof.Machine

/-- RDOUT v, map, row, col (40_commands.md R162). -/
def rdoutState (f : CmdFields) (s : State) : State :=
  if f.imm != 0 then s.reject .reservedField
  else if s.numVs ≤ vsOf f then s.reject .badVs
  else if 3 < f.sel.toNat then s.reject .badIndex
  else if (s.ctx (vsOf f)).hasOutput = false then s.reject .noOutput
  else if (s.ctx (vsOf f)).desc.outRows.toNat ≤ rowOf f ∨ (s.ctx (vsOf f)).desc.outCols.toNat ≤ colOf f then
    s.reject .badIndex
  else s.answer (((s.ctx (vsOf f)).outWord f.sel.toNat (rowOf f) (colOf f)).setWidth 64)

/-- RDDESC v, sel (40_commands.md R163). -/
def rddescState (f : CmdFields) (s : State) : State :=
  if f.imm != 0 || f.arg != 0 then s.reject .reservedField
  else if s.numVs ≤ vsOf f then s.reject .badVs
  else if 5 < f.sel.toNat then s.reject .badIndex
  else if (s.ctx (vsOf f)).hasOutput = false then s.reject .noOutput
  else s.answer (((s.ctx (vsOf f)).desc.field f.sel.toNat).setWidth 64)

/-- WRMASK v, row, col, bit (40_commands.md R164). -/
def wrmaskState (f : CmdFields) (s : State) : State :=
  if f.sel != 0 || f.imm.extractLsb' 1 15 != 0 then s.reject .reservedField
  else if s.numVs ≤ vsOf f then s.reject .badVs
  else if s.params.maxRows.val ≤ rowOf f ∨ s.params.maxCols.val ≤ colOf f then s.reject .badIndex
  else (s.setCtx (vsOf f) ((s.ctx (vsOf f)).setMaskBit (rowOf f) (colOf f) (f.imm.getLsbD 0))).answer 0

/-- RDMASK v, row, col (40_commands.md R165). -/
def rdmaskState (f : CmdFields) (s : State) : State :=
  if f.sel != 0 || f.imm != 0 then s.reject .reservedField
  else if s.numVs ≤ vsOf f then s.reject .badVs
  else if s.params.maxRows.val ≤ rowOf f ∨ s.params.maxCols.val ≤ colOf f then s.reject .badIndex
  else s.answer ((bit1 ((s.ctx (vsOf f)).maskBit (rowOf f) (colOf f))).setWidth 64)

/-- The meaning of RDOUT. -/
def execRdout (f : CmdFields) (s : State) : Host.Outcome State Fault Refusal := .next (rdoutState f s)

/-- The meaning of RDDESC. -/
def execRddesc (f : CmdFields) (s : State) : Host.Outcome State Fault Refusal := .next (rddescState f s)

/-- The meaning of WRMASK. -/
def execWrmask (f : CmdFields) (s : State) : Host.Outcome State Fault Refusal := .next (wrmaskState f s)

/-- The meaning of RDMASK. -/
def execRdmask (f : CmdFields) (s : State) : Host.Outcome State Fault Refusal := .next (rdmaskState f s)

end Sys2Proof.Machine
end

