-- ==== Sys2Proof/Machine/Conditioner.lean ====
section
/-! DEFINITION. The ROI conditioner (41_roi_conditioner.md): the HDR delay line and retake merge (R200 to R205), and tap
de-rotation (R206). -/

namespace Sys2Proof.Machine

/-- What the conditioner answers (41_roi_conditioner.md R200), with the context it leaves. -/
inductive Conditioned where
  | emitted (c : Context) (roi : RoiRecord)
  | stored (c : Context)
  /-- `Fatal(HDR_SHAPE)`. -/
  | badShape (c : Context)
deriving DecidableEq, Repr

/-- `hdr_active` (41_roi_conditioner.md R200). -/
def hdrActive (ctrl : BitVec 32) (h : RoiHeader) : Bool :=
  ctrlHdrEnabled ctrl && !h.hdrDisabled && h.mode == .stripe

/-- The maximum over frequencies, copies and taps of the samples of pixel `(i, c)` (41_roi_conditioner.md R204). -/
def RoiRecord.peak (p : RoiRecord) (i c : Nat) : Nat :=
  (List.range 2).foldl (fun acc f =>
    (List.range p.header.rotations).foldl (fun acc j =>
      (List.range 3).foldl (fun acc t => Max.max acc (p.raw f j i c t)) acc) acc) 0

/-- Whether the retake's shape is the held ROI's (41_roi_conditioner.md R204). -/
def sameShape (p roi : RoiRecord) : Bool :=
  roi.header.nRows == p.header.nRows && roi.header.winNcols == p.header.winNcols
    && roi.header.nrot == p.header.nrot && roi.header.startRow == p.header.startRow
    && roi.header.tapAccum == p.header.tapAccum

/-- `header_of_merge(p, roi)` (41_roi_conditioner.md R205). -/
def headerOfMerge (p roi : RoiHeader) : RoiHeader :=
  { p with
    firstOfFrame := p.firstOfFrame || roi.firstOfFrame
    frameCompleted := p.frameCompleted || roi.frameCompleted }

/-- Per pixel, in the order `i * WIN_NCOLS + c`: whether the pixel keeps the held ROI's samples, which it does when its
peak is below SAT_THRESH (41_roi_conditioner.md R204). -/
def keepsHeld (sat : NUM) (p : RoiRecord) : List Bool :=
  (List.range (p.header.rows * p.header.cols)).map fun n =>
    (NUM.ofNat (p.peak (n / p.header.cols) (n % p.header.cols))).lt sat

/-- The merged payload: sample `(f, j, i, c, t)` comes from the ROI chosen for pixel `(i, c)`. Its place is
`((f * NROT + j) * (N_ROWS * WIN_NCOLS) + (i * WIN_NCOLS + c)) * 3 + t` (30_encoding.md R121). -/
def mergePayload (sat : NUM) (p roi : RoiRecord) : List Word :=
  let keep := keepsHeld sat p
  (List.range p.payload.length).map fun idx =>
    if keep.getD (idx / 3 % (p.header.rows * p.header.cols)) true then p.payload.getD idx 0
    else roi.payload.getD idx 0

/-- `merge(v, roi)` with the held ROI `p` (41_roi_conditioner.md R204). -/
def mergeRetake (sat : NUM) (ctx : Context) (p roi : RoiRecord) : Conditioned :=
  if sameShape p roi then
    .emitted { ctx with hdrCorrected := true } ⟨headerOfMerge p.header roi.header, mergePayload sat p roi⟩
  else .badShape ctx

/-- `store(v, roi)` (41_roi_conditioner.md R202). -/
def storeRoi (ctx : Context) (roi : RoiRecord) : Conditioned :=
  .stored { ctx with hdrPrev := some roi, hdrCorrected := false }

/-- `swap(v, roi)` with the held ROI `p` (41_roi_conditioner.md R203). -/
def swapRoi (ctx : Context) (p roi : RoiRecord) : Conditioned := .emitted { ctx with hdrPrev := some roi } p

/-- `condition(v, roi)` (41_roi_conditioner.md R200, R201). -/
def condition (p : Params) (ctrl : BitVec 32) (ctx : Context) (roi : RoiRecord) : Conditioned :=
  if !hdrActive ctrl roi.header then .emitted ctx roi
  else
    match ctx.hdrPrev with
    | none => storeRoi ctx roi
    | some held =>
      if ctx.hdrCorrected then storeRoi ctx roi
      else if roi.header.prevSaturated then mergeRetake p.satThresh ctx held roi
      else swapRoi ctx held roi

/-- The assembler's view of an emitted ROI (41_roi_conditioner.md R206): its header, and one tap triple per frequency,
row and column. -/
structure RoiView where
  header : RoiHeader
  tap0 : Grid Taps
  tap1 : Grid Taps
deriving DecidableEq, Repr

/-- One de-rotated tap (41_roi_conditioner.md R206): with TAP_ACCUM the sum over the copies `j` of stored tap
`(t + j) mod 3`, without it copy 0's tap. -/
def derotatedTap (roi : RoiRecord) (f i c t : Nat) : NUM :=
  if roi.header.tapAccum then
    (List.range (roi.header.rotations - 1)).foldl
      (fun acc n => acc.add (NUM.ofNat (roi.raw f (n + 1) i c ((t + (n + 1)) % 3))))
      (NUM.ofNat (roi.raw f 0 i c t))
  else NUM.ofNat (roi.raw f 0 i c t)

/-- `derotate(roi)` (41_roi_conditioner.md R206). -/
def derotate (roi : RoiRecord) : RoiView where
  header := roi.header
  tap0 := Grid.build roi.header.rows roi.header.cols fun i c => Taps.build (derotatedTap roi 0 i c)
  tap1 := Grid.build roi.header.rows roi.header.cols fun i c => Taps.build (derotatedTap roi 1 i c)

end Sys2Proof.Machine
end

