-- ==== Sys2Proof/Machine/Assembler.lean ====
section
/-! DEFINITION. The frame assembler (42_frame_assembler.md): opening and matching a frame (R220, R221), the SNR proxy
(R222), grid mode (R223 to R227) and stripe mode (R230 to R234). -/

namespace Sys2Proof.Machine

/-- The frame descriptor latched from a header (42_frame_assembler.md R220). -/
def frameDescOf (h : RoiHeader) : FrameDesc where
  mode := h.mode
  bin := h.binning
  winRow0 := h.winRow0
  winNrows := h.winNrows
  winCol0 := h.winCol0
  winNcols := h.winNcols
  n0 := h.n0
  n1 := h.n1
  f0 := h.freq0
  f1 := h.freq1
  sRow0 := h.startRow
  sNrows := h.nRows

/-- `open_frame(v, e)` (42_frame_assembler.md R220). -/
def openFrame (ctx : Context) (h : RoiHeader) : Context :=
  { ctx with
    fd := frameDescOf h
    active := []
    raw0 := []
    raw1 := []
    vote := []
    stripeCount := 0
    srow0 := []
    srow1 := []
    snorm := []
    frameOpen := true }

/-- `frame_match(v, e)` (42_frame_assembler.md R221). -/
def frameMatch (fd : FrameDesc) (h : RoiHeader) : Bool :=
  h.mode == fd.mode && h.binning == fd.bin
    && h.winRow0 == fd.winRow0 && h.winNrows == fd.winNrows && h.winCol0 == fd.winCol0 && h.winNcols == fd.winNcols
    && h.n0 == fd.n0 && h.n1 == fd.n1 && h.freq0 == fd.f0 && h.freq1 == fd.f1
    && (fd.mode == .grid || h.nRows == fd.sNrows)

/-- `proxy(T)` (42_frame_assembler.md R222). -/
def proxy (t : Taps) : NUM :=
  let c := (t.t0.min t.t1).min t.t2
  let ab := ((t.t0.add t.t1).add t.t2).sub c
  let s := ab.sub (NUM.two.mul c)
  (s.mul s).div (NUM.two.mul (c.max NUM.proxyCFloor))

/-- The combined two-frequency proxy of a ROI pixel (42_frame_assembler.md R223, R230). -/
def combinedProxy (e : RoiView) (i c : Nat) : NUM := (proxy (e.tap0.taps i c)).add (proxy (e.tap1.taps i c))

/-- `H = ⌊win_nrows / B⌋` (42_frame_assembler.md R225). -/
def FrameDesc.gridRows (fd : FrameDesc) : Nat := fd.winNrows.toNat / fd.bin.toNat
/-- `W = ⌊win_ncols / B⌋` (42_frame_assembler.md R225, R232). -/
def FrameDesc.outCols (fd : FrameDesc) : Nat := fd.winNcols.toNat / fd.bin.toNat

/-! ### Grid mode -/

/-- One pixel of row voting (42_frame_assembler.md R223): a strictly larger combined proxy replaces the vote and both
frequencies' triples. -/
def votePixel (e : RoiView) (i r : Nat) (ctx : Context) (c : Nat) : Context :=
  let q := combinedProxy e i c
  if (Memory.read NUM.negInf ctx.vote (pixKey r c)).lt q then
    { ctx with
      vote := Memory.write NUM.negInf ctx.vote (pixKey r c) q
      raw0 := Memory.write Taps.zero ctx.raw0 (pixKey r c) (e.tap0.taps i c)
      raw1 := Memory.write Taps.zero ctx.raw1 (pixKey r c) (e.tap1.taps i c) }
  else ctx

/-- The frame row of ROI row `i` (42_frame_assembler.md R223). -/
def frameRow (fd : FrameDesc) (h : RoiHeader) (i : Nat) : Nat := h.startRow.toNat - fd.winRow0.toNat + i

/-- One ROI row of row voting (42_frame_assembler.md R223). -/
def voteRow (e : RoiView) (ctx : Context) (i : Nat) : Context :=
  (List.range ctx.fd.winNcols.toNat).foldl (votePixel e i (frameRow ctx.fd e.header i))
    { ctx with active := Memory.write false ctx.active (frameRow ctx.fd e.header i) true }

/-- `grid_accumulate(v, e)` (42_frame_assembler.md R223). -/
def gridAccumulate (ctx : Context) (e : RoiView) : Context := (List.range e.header.rows).foldl (voteRow e) ctx

/-- The mean of two triples, tap by tap: `(x + y) * 0.5` (42_frame_assembler.md R224). -/
def Taps.mean (x y : Taps) : Taps := Taps.build fun k => ((x.tap k).add (y.tap k)).mul NUM.half

/-- One pixel of the filled frame (42_frame_assembler.md R224), of the stored buffer `raw`. -/
def filledPixel (ctx : Context) (raw : Memory Taps) (r c : Nat) : Taps :=
  let isActive := fun n => Memory.read false ctx.active n
  let at' := fun n => Memory.read Taps.zero raw (pixKey n c)
  if isActive r then at' r
  else
    let up := decide (1 ≤ r) && isActive (r - 1)
    let dn := decide (r + 1 < ctx.fd.winNrows.toNat) && isActive (r + 1)
    if up && dn then Taps.mean (at' (r - 1)) (at' (r + 1))
    else if up then at' (r - 1)
    else if dn then at' (r + 1)
    else Taps.zero

/-- `row_fill(v)` for one frequency (42_frame_assembler.md R224). -/
def rowFill (ctx : Context) (raw : Memory Taps) : Grid Taps :=
  Grid.build ctx.fd.winNrows.toNat ctx.fd.winNcols.toNat (filledPixel ctx raw)

/-- `grid_bin(F)` for one frequency (42_frame_assembler.md R225): box sums along each row, then along each column. -/
def gridBin (fd : FrameDesc) (filled : Grid Taps) : Grid Taps :=
  let b := fd.bin.toNat
  let hs := Grid.build fd.winNrows.toNat fd.outCols fun r j =>
    Taps.build fun t => NUM.sumUp b fun u => (filled.taps r (j * b + u)).tap t
  Grid.build fd.gridRows fd.outCols fun i j =>
    Taps.build fun t => NUM.sumUp b fun u => (hs.taps (i * b + u) j).tap t

/-! ### Stripe mode -/

/-- The Gaussian weight of ROI row `i` of `n` (42_frame_assembler.md R230). -/
def gaussWeight (sigma : NUM) (n i : Nat) : NUM :=
  let d := (NUM.ofNat i).sub ((NUM.ofNat (n - 1)).mul NUM.half)
  NUM.exp ((d.mul d).div (NUM.two.mul (sigma.mul sigma))).neg

/-- The weight `w(i, c)` (42_frame_assembler.md R230). STRIPE_WINDOW 3 is never held (10_state.md
R32; log entry 10). -/
def stripeWeight (p : Params) (ctrl : BitVec 32) (e : RoiView) (i c : Nat) : NUM :=
  match (ctrlStripeWindow ctrl).toNat with
  | 0 => NUM.one
  | 1 => gaussWeight p.gaussSigma e.header.rows i
  | _ => combinedProxy e i c

/-- All weights of a ROI. -/
def stripeWeights (p : Params) (ctrl : BitVec 32) (e : RoiView) : Grid NUM :=
  Grid.build e.header.rows e.header.cols (stripeWeight p ctrl e)

/-- `WS[c]` of `collapse(e)` (42_frame_assembler.md R231). -/
def weightSum (w : Grid NUM) (rows c : Nat) : NUM := NUM.sumUp rows fun i => w.num i c

/-- `Ccol[f][c]` of `collapse(e)` (42_frame_assembler.md R231), of one frequency's taps. -/
def collapsedTaps (w : Grid NUM) (taps : Grid Taps) (rows c : Nat) : Taps :=
  Taps.build fun t => NUM.sumUp rows fun i => (w.num i c).mul ((taps.taps i c).tap t)

/-- `SN[j]` for every `j < W` (42_frame_assembler.md R232). -/
def stripeCounts (fd : FrameDesc) (w : Grid NUM) (rows : Nat) : List NUM :=
  let ws := (List.range fd.winNcols.toNat).map (weightSum w rows)
  (List.range fd.outCols).map fun j => NUM.sumUp fd.bin.toNat fun u => ws.getD (j * fd.bin.toNat + u) NUM.zero

/-- `SR[f][j]` for every `j < W` (42_frame_assembler.md R232), of one frequency's taps. -/
def stripeTaps (fd : FrameDesc) (w : Grid NUM) (taps : Grid Taps) (rows : Nat) : List Taps :=
  let cs := (List.range fd.winNcols.toNat).map (collapsedTaps w taps rows)
  (List.range fd.outCols).map fun j =>
    Taps.build fun t => NUM.sumUp fd.bin.toNat fun u => (cs.getD (j * fd.bin.toNat + u) Taps.zero).tap t

/-- `stripe_accumulate(v, e)` (42_frame_assembler.md R233); `none` is its answer `false`. -/
def stripeAccumulate (p : Params) (ctrl : BitVec 32) (ctx : Context) (e : RoiView) : Option Context :=
  let k := ctx.stripeCount
  if p.maxRows.val ≤ k then none
  else
    let w := stripeWeights p ctrl e
    let sr0 := stripeTaps ctx.fd w e.tap0 e.header.rows
    let sr1 := stripeTaps ctx.fd w e.tap1 e.header.rows
    let sn := stripeCounts ctx.fd w e.header.rows
    some { ctx with
      srow0 := Memory.writeRow Taps.zero ctx.srow0 k ctx.fd.outCols fun j => sr0.getD j Taps.zero
      srow1 := Memory.writeRow Taps.zero ctx.srow1 k ctx.fd.outCols fun j => sr1.getD j Taps.zero
      snorm := Memory.writeRow NUM.zero ctx.snorm k ctx.fd.outCols fun j => sn.getD j NUM.zero
      stripeCount := k + 1 }

/-! ### The binned frame -/

/-- What `final_raw(v)` returns (42_frame_assembler.md R227, R234). -/
structure BinnedFrame where
  x0 : Grid Taps
  x1 : Grid Taps
  nc : Grid NUM
  h : Nat
  w : Nat
deriving DecidableEq, Repr

/-- `final_raw(v)` in grid mode (42_frame_assembler.md R226, R227). -/
def finalGrid (ctx : Context) : BinnedFrame where
  x0 := gridBin ctx.fd (rowFill ctx ctx.raw0)
  x1 := gridBin ctx.fd (rowFill ctx ctx.raw1)
  nc := Grid.build ctx.fd.gridRows ctx.fd.outCols fun _ _ => NUM.ofNat (ctx.fd.bin.toNat * ctx.fd.bin.toNat)
  h := ctx.fd.gridRows
  w := ctx.fd.outCols

/-- `final_raw(v)` in stripe mode (42_frame_assembler.md R234). -/
def finalStripe (ctx : Context) : BinnedFrame where
  x0 := Grid.build ctx.stripeCount ctx.fd.outCols fun k j => Memory.read Taps.zero ctx.srow0 (pixKey k j)
  x1 := Grid.build ctx.stripeCount ctx.fd.outCols fun k j => Memory.read Taps.zero ctx.srow1 (pixKey k j)
  nc := Grid.build ctx.stripeCount ctx.fd.outCols fun k j => Memory.read NUM.zero ctx.snorm (pixKey k j)
  h := ctx.stripeCount
  w := ctx.fd.outCols

/-- `final_raw(v)` (40_commands.md R160). -/
def finalRaw (ctx : Context) : BinnedFrame :=
  match ctx.fd.mode with
  | .grid => finalGrid ctx
  | .stripe => finalStripe ctx

end Sys2Proof.Machine
end

