-- ==== Sys2Proof/Machine/Demodulator.lean ====
section
/-! DEFINITION. The phase/signal/SNR demodulator (43_demodulator.md R260 to R262). -/

namespace Sys2Proof.Machine

/-- What `classify(T)` returns (43_demodulator.md R260). -/
structure Classified where
  m : Nat
  a : NUM
  b : NUM
  c : NUM
  off : NUM
deriving DecidableEq, Repr

/-- The index of the minimum tap, the highest one of equals (43_demodulator.md R260). -/
def minIndex (t : Taps) : Nat :=
  let low := (t.t0.min t.t1).min t.t2
  if t.t2.eqv low then 2 else if t.t1.eqv low then 1 else 0

/-- `OFF[m] = (1/3, 2/3, 0)[m]` (43_demodulator.md R260). -/
def sectorOffset (m : Nat) : NUM :=
  match m with
  | 0 => NUM.third
  | 1 => NUM.twoThirds
  | _ => NUM.zero

/-- `classify(T)` (43_demodulator.md R260). -/
def classify (t : Taps) : Classified :=
  let m := minIndex t
  { m := m
    a := t.tap ((m + 1) % 3)
    b := t.tap ((m + 2) % 3)
    c := t.tap m
    off := sectorOffset m }

/-- `s = (a + b) - 2 * c0` (43_demodulator.md R261). -/
def signalOf (k : Classified) : NUM := (k.a.add k.b).sub (NUM.two.mul k.c)

/-- `phase_of(T)` (43_demodulator.md R262). -/
def phaseOf (t : Taps) : NUM :=
  let k := classify t
  let s := signalOf k
  if NUM.zero.lt s then (NUM.third.mul ((k.b.sub k.c).div s)).add k.off else NUM.zero

/-- The accumulators of one output pixel (43_demodulator.md R261). -/
structure Accum where
  sig : NUM
  bg : NUM
  snr : NUM
deriving DecidableEq, Repr

/-- The accumulators before the first call (40_commands.md R160). -/
def Accum.zero : Accum := ⟨NUM.zero, NUM.zero, NUM.zero⟩

/-- One pixel of one call of `demod` (43_demodulator.md R261), with the normalization count `n`. The phase the call
writes is `phaseOf` (R262). -/
def demodPixel (acc : Accum) (t : Taps) (n : NUM) : Accum :=
  let k := classify t
  let s := signalOf k
  if NUM.zero.lt s then
    let sn := s.div n
    let bn := (k.c.max NUM.eps).div n
    { sig := acc.sig.add sn
      bg := acc.bg.add bn
      snr := acc.snr.add (sn.div (NUM.two.mul bn).sqrt) }
  else acc

/-- One call of `demod` on a frame (43_demodulator.md R261): the accumulators after it. -/
def demodFrame (acc : Nat → Nat → Accum) (x : Grid Taps) (nc : Grid NUM) (h w : Nat) : Grid Accum :=
  Grid.build h w fun r c => demodPixel (acc r c) (x.taps r c) (nc.num r c)

/-- Both calls, frequency 0 first (40_commands.md R160). -/
def demodBoth (fr : BinnedFrame) : Grid Accum :=
  let first := demodFrame (fun _ _ => Accum.zero) fr.x0 fr.nc fr.h fr.w
  demodFrame (fun r c => Grid.read Accum.zero first r c) fr.x1 fr.nc fr.h fr.w

/-- The phase map of a frame: `PH[f]` of the demodulator and `SP[f]` of the smoother (43_demodulator.md R262,
44_smoother.md R282). -/
def phaseMap (x : Grid Taps) (h w : Nat) : Grid NUM := Grid.build h w fun r c => phaseOf (x.taps r c)

end Sys2Proof.Machine
end

