-- ==== Sys2Proof/Machine/Smoother.lean ====
section
/-! DEFINITION. The spatial smoother and phase corrector (44_smoother.md R280 to R283). -/

namespace Sys2Proof.Machine

/-- P7 KSEL and P6: the kernel of a binning factor (00_scope.md R9, 44_smoother.md R280): B = 1, 2, ≥ 3 take kernels
0, 1, 2. -/
def kernelOf (p : Params) (b : Nat) : List NUM :=
  if b = 1 then p.kernel0 else if b = 2 then p.kernel1 else p.kernel2

/-- A weighted sum along one dimension of length `n` around place `x` (44_smoother.md R281): terms outside it are left
out. -/
def firSum (kernel : List NUM) (n x : Nat) (value : Nat → NUM) : NUM :=
  let half := (kernel.length - 1) / 2
  (List.range kernel.length).foldl
    (fun acc k =>
      if half ≤ x + k ∧ x + k - half < n then acc.add ((kernel.getD k NUM.zero).mul (value (x + k - half))) else acc)
    NUM.zero

/-- The horizontal pass (44_smoother.md R281). -/
def firRows (kernel : List NUM) (x : Grid Taps) (h w : Nat) : Grid Taps :=
  Grid.build h w fun r c => Taps.build fun t => firSum kernel w c fun cc => (x.taps r cc).tap t

/-- The vertical pass (44_smoother.md R281). -/
def firCols (kernel : List NUM) (y : Grid Taps) (h w : Nat) : Grid Taps :=
  Grid.build h w fun r c => Taps.build fun t => firSum kernel h r fun rr => (y.taps rr c).tap t

/-- `smooth(Xf, B, H, W)` with its kernel (44_smoother.md R280, R281): skipped when the kernel is longer than the frame
in either dimension. -/
def smooth (kernel : List NUM) (x : Grid Taps) (h w : Nat) : Grid Taps :=
  if h < kernel.length ∨ w < kernel.length then x
  else firCols kernel (firRows kernel x h w) h w

/-- `correct(φ, sφ)` (44_smoother.md R283). -/
def correctPhase (ph sp : NUM) : NUM :=
  let d := ph.sub sp
  if NUM.half.lt d then ph.sub NUM.one
  else if d.lt NUM.negHalf then ph.add NUM.one
  else ph

/-- `CP[f]` (44_smoother.md R283). -/
def correctedMap (ph sp : Grid NUM) (h w : Nat) : Grid NUM :=
  Grid.build h w fun r c => correctPhase (ph.num r c) (sp.num r c)

end Sys2Proof.Machine
end

