-- ==== Sys2Proof/Machine/Unwrapper.lean ====
section
/-! DEFINITION. The dual-frequency range unwrapper (45_unwrapper.md R301 to R305). -/

namespace Sys2Proof.Machine

/-- `M = rhaz(num(N0) * sφ1 - num(N1) * sφ0)` (45_unwrapper.md R301). -/
def rawCycle (fd : FrameDesc) (sp0 sp1 : NUM) : Int :=
  (((NUM.ofNat fd.n0.toNat).mul sp1).sub ((NUM.ofNat fd.n1.toNat).mul sp0)).rhaz

/-- The sign mask (45_unwrapper.md R302). -/
def signMask (sp0 sp1 : NUM) : Nat := if sp1.lt sp0 then 1 else 0

/-- `CYC = (M + N0 * s) mod N0` (45_unwrapper.md R303); `Int.emod` is the Euclidean remainder (00_scope.md R12). -/
def cycleIndex (fd : FrameDesc) (sp0 sp1 : NUM) : Nat :=
  ((rawCycle fd sp0 sp1 + fd.n0.toNat * signMask sp0 sp1) % fd.n0.toNat).toNat

/-- `HALF_C = C_LIGHT * 0.5` (45_unwrapper.md R304). -/
def halfC : NUM := NUM.cLight.mul NUM.half

/-- The range of one pixel (45_unwrapper.md R304), from its cycle index, sign mask and corrected phases. -/
def rangeOf (fd : FrameDesc) (cyc s : Nat) (cp0 cp1 : NUM) : NUM :=
  let r0 := (halfC.mul (NUM.one.div fd.f0)).mul ((NUM.ofNat cyc).add cp0)
  let r1 := (halfC.mul (NUM.one.div fd.f1)).mul ((NUM.ofNat (cyc + s)).add cp1)
  let rng := (r1.add r0).mul NUM.half
  if NUM.zero.lt rng then rng else NUM.zero

/-- `R_MAX` (45_unwrapper.md R305). -/
def rangeMax (fd : FrameDesc) : NUM := halfC.mul ((NUM.ofNat fd.n0.toNat).div fd.f0)

/-- The cycle-index map CYC (45_unwrapper.md R303). -/
def cycleMap (fd : FrameDesc) (sp0 sp1 : Grid NUM) (h w : Nat) : Grid Nat :=
  Grid.build h w fun r c => cycleIndex fd (sp0.num r c) (sp1.num r c)

/-- The range map RNG (45_unwrapper.md R304). -/
def rangeMap (fd : FrameDesc) (cyc : Grid Nat) (sp0 sp1 cp0 cp1 : Grid NUM) (h w : Nat) : Grid NUM :=
  Grid.build h w fun r c =>
    rangeOf fd (Grid.read 0 cyc r c) (signMask (sp0.num r c) (sp1.num r c)) (cp0.num r c) (cp1.num r c)

end Sys2Proof.Machine
end

