-- ==== Sys2Proof/Machine/Filters.lean ====
section
/-! DEFINITION. The artifact filters (46_artifact_filters.md): ghost mask (R320 to R324), median (R326 to R328) and
nearest neighbour (R330 to R336). -/

namespace Sys2Proof.Machine

/-- A table by binning: its value for `B` stands at place `B - 1` (00_scope.md R9 P8, P10, P11); 1 outside the table (log
entry 10). -/
def byBinning (table : List Nat) (b : Nat) : Nat := table.getD (b - 1) 1

/-- The places of a window of size `n` around `x` in a dimension of length `len`, in rising order: `⌊n/2⌋` before it,
the rest after, clipped (46_artifact_filters.md R320). -/
def windowPlaces (n len x : Nat) : List Nat :=
  ((List.range n).filter fun k => n / 2 ≤ x + k ∧ x + k - n / 2 < len).map fun k => x + k - n / 2

/-- The pixels of the window of `(r, c)` (46_artifact_filters.md R320). -/
def windowPixels (n h w r c : Nat) : List (Nat × Nat) :=
  (windowPlaces n h r).flatMap fun r' => (windowPlaces n w c).map fun c' => (r', c')

/-- The largest of a list that begins with `x`. -/
def maxFrom (x : NUM) (xs : List NUM) : NUM := xs.foldl NUM.max x
/-- The smallest of a list that begins with `x`. -/
def minFrom (x : NUM) (xs : List NUM) : NUM := xs.foldl NUM.min x

/-- `max(window) - min(window) > tol` (46_artifact_filters.md R321). A window always holds its own pixel. -/
def spreadExceeds (tol : NUM) (values : List NUM) : Bool :=
  match values with
  | [] => false
  | x :: xs => tol.lt ((maxFrom x xs).sub (minFrom x xs))

/-- `fwd(Q)` (46_artifact_filters.md R321). -/
def ghostScan (n : Nat) (tol : NUM) (q : Grid NUM) (h w : Nat) : Grid Bool :=
  Grid.build h w fun r c => spreadExceeds tol ((windowPixels n h w r c).map fun p => q.num p.1 p.2)

/-- `flip(A)` (46_artifact_filters.md R322). -/
def flipGrid {α : Type} (d : α) (a : Grid α) (h w : Nat) : Grid α :=
  Grid.build h w fun r c => Grid.read d a (h - 1 - r) (w - 1 - c)

/-- The reverse mask `flip(fwd(flip(Q)))` (46_artifact_filters.md R322). -/
def ghostReverse (n : Nat) (tol : NUM) (q : Grid NUM) (h w : Nat) : Grid Bool :=
  flipGrid false (ghostScan n tol (flipGrid NUM.zero q h w) h w) h w

/-- `ghost(CYC, B, H, W)` (46_artifact_filters.md R320, R323). -/
def ghostMask (n : Nat) (tol : NUM) (cyc : Grid Nat) (h w : Nat) : Grid Bool :=
  let q := Grid.build h w fun r c => NUM.ofNat (Grid.read 0 cyc r c)
  let fwd := ghostScan n tol q h w
  let rev := ghostReverse n tol q h w
  Grid.build h w fun r c => Grid.read false fwd r c && Grid.read false rev r c

/-- Stripe-mode median of one pixel (46_artifact_filters.md R326), window length `n`. -/
def medianStripePixel (n : Nat) (rng : Grid NUM) (w r c : Nat) : NUM :=
  let half := (n - 1) / 2
  if half ≤ c ∧ c + half < w then
    NUM.median ((List.range (2 * half + 1)).map fun k => rng.num r (c + k - half))
  else rng.num r c

/-- Grid-mode median of one pixel (46_artifact_filters.md R327): the plus footprint, its centre counted once. -/
def medianGridPixel (n : Nat) (rng : Grid NUM) (h w r c : Nat) : NUM :=
  let half := (n - 1) / 2
  if half ≤ r ∧ r + half < h ∧ half ≤ c ∧ c + half < w then
    NUM.median
      (((List.range (2 * half + 1)).map fun k => rng.num r (c + k - half))
        ++ ((List.range (2 * half + 1)).filter fun k => k ≠ half).map fun k => rng.num (r + k - half) c)
  else rng.num r c

/-- `median(RNG, mode, B, H, W)` (46_artifact_filters.md R328). -/
def medianFilter (p : Params) (fd : FrameDesc) (rng : Grid NUM) (h w : Nat) : Grid NUM :=
  match fd.mode with
  | .stripe => Grid.build h w (medianStripePixel (byBinning p.medWStripe fd.bin.toNat) rng w)
  | .grid => Grid.build h w (medianGridPixel (byBinning p.medWGrid fd.bin.toNat) rng h w)

/-- Whether `q` is close to `rp` (46_artifact_filters.md R331). -/
def isClose (absTol propTol rp q : NUM) : Bool := ((q.sub rp).abs).le (absTol.add (propTol.mul rp))

/-- The number of close neighbours of a pixel (46_artifact_filters.md R330 to R332). -/
def closeCount (p : Params) (n : Nat) (rm : Grid NUM) (h w r c : Nat) : Nat :=
  (((windowPixels n h w r c).filter fun q => q ≠ (r, c)).filter fun q =>
    isClose p.nnAbsTol p.nnPropTol (rm.num r c) (rm.num q.1 q.2)).length

/-- `NN_TABLE[l]` for level 1..5 (00_scope.md R9 P12); the identity outside the table (log entry 10). -/
def nnRow (p : Params) (level : Nat) : Nat × Nat := p.nnTable.getD (level - 1) (1, 0)

/-- `nn(RM, level, H, W)` (46_artifact_filters.md R330 to R333, R336): every count reads the filter's input. -/
def nnFilter (p : Params) (level : Nat) (rm : Grid NUM) (h w : Nat) : Grid NUM :=
  if level = 0 then rm
  else
    Grid.build h w fun r c =>
      if closeCount p (nnRow p level).1 rm h w r c < (nnRow p level).2 then NUM.zero else rm.num r c

end Sys2Proof.Machine
end

