-- ==== Sys2Proof/Machine/Quantizer.lean ====
section
/-! DEFINITION. Temperature correction, validity masking and quantizer (47_quantizer.md R350 to R357). -/

namespace Sys2Proof.Machine

/-- `r1` (47_quantizer.md R350). -/
def correctedRange (rn offset : NUM) : NUM :=
  let r1 := rn.sub offset
  if NUM.zero.lt r1 then r1 else NUM.zero

/-- Whether a pixel is invalid (47_quantizer.md R352), from its reduced range `r2`, its SNR, its mask bit and its ghost
bit. -/
def pixelInvalid (ctrl : BitVec 32) (snrThreshold rangeLimit r2 snr : NUM) (maskBit ghost : Bool) : Bool :=
  !ctrlDisableRangeMasking ctrl
    && (!maskBit
      || snr.lt (snrThreshold.mul NUM.two)
      || (!ctrlDisableRangeLimit ctrl && rangeLimit.lt r2)
      || (ctrlPerformMinmax ctrl && ghost))

/-- Range output (47_quantizer.md R353). -/
def quantizeRange (r2 : NUM) : BitVec 16 := clip16 (r2.mul NUM.n1024).rhaz
/-- Signal output (47_quantizer.md R354). -/
def quantizeSignal (sig : NUM) : BitVec 16 := clip16 (sig.mul NUM.half).rhaz
/-- Background output (47_quantizer.md R355). -/
def quantizeBackground (bg : NUM) : BitVec 16 := clip16 bg.rhaz
/-- SNR output (47_quantizer.md R356). -/
def quantizeSnr (snr : NUM) : BitVec 16 := clip16 (snr.mul NUM.half).rhaz

/-- The range word of one pixel (47_quantizer.md R350 to R353). -/
def rangeWord (ctrl : BitVec 32) (snrThreshold : NUM) (ctx : Context) (rn snr : NUM) (ghost : Bool) (r c : Nat) :
    BitVec 16 :=
  let r2 := (correctedRange rn ctx.rangeOffset).fmod (rangeMax ctx.fd)
  if pixelInvalid ctrl snrThreshold ctx.rangeLimit r2 snr (ctx.maskBit r c) ghost then quantizeRange NUM.zero
  else quantizeRange r2

/-- `quantize(v, RN, SIG, BG, SNR, G, H, W)` (47_quantizer.md R357): every entry of the four maps is written, those
outside the frame with 0. -/
def quantize (ctrl : BitVec 32) (snrThreshold : NUM) (ctx : Context) (rn : Grid NUM) (acc : Grid Accum)
    (ghost : Grid Bool) (h w : Nat) : Context :=
  let a := fun r c => Grid.read Accum.zero acc r c
  { ctx with
    outRange := Memory.ofPixels 0 h w fun r c =>
      rangeWord ctrl snrThreshold ctx (rn.num r c) (a r c).snr (Grid.read false ghost r c) r c
    outSignal := Memory.ofPixels 0 h w fun r c => quantizeSignal (a r c).sig
    outBackground := Memory.ofPixels 0 h w fun r c => quantizeBackground (a r c).bg
    outSnr := Memory.ofPixels 0 h w fun r c => quantizeSnr (a r c).snr }

end Sys2Proof.Machine
end

