-- ==== Sys2Proof/Machine/Pipeline.lean ====
section
/-! DEFINITION. The frame pipeline (40_commands.md R160) and the coordinate descriptor (R161). -/

namespace Sys2Proof.Machine

/-- `descriptor(v, H, W)` (40_commands.md R161). -/
def descriptorOf (fd : FrameDesc) (h w : Nat) : Descriptor :=
  match fd.mode with
  | .grid =>
    { outRows := BitVec.ofNat 16 h, outCols := BitVec.ofNat 16 w, topRow := fd.winRow0, leftCol := fd.winCol0
      rowStep := fd.bin.setWidth 16, colStep := fd.bin.setWidth 16 }
  | .stripe =>
    { outRows := BitVec.ofNat 16 h, outCols := BitVec.ofNat 16 w, topRow := fd.sRow0, leftCol := fd.winCol0
      rowStep := fd.sNrows, colStep := fd.bin.setWidth 16 }

/-- The range map after the median and nearest-neighbour filters, RN (40_commands.md R160). -/
def filteredRange (p : Params) (ctrl : BitVec 32) (fd : FrameDesc) (rng : Grid NUM) (h w : Nat) : Grid NUM :=
  nnFilter p (ctrlNnLevel ctrl).toNat (if ctrlPerformMedian ctrl then medianFilter p fd rng h w else rng) h w

/-- The ghost mask G (40_commands.md R160, 46_artifact_filters.md R324): all 0 when PERFORM_MINMAX is 0. -/
def ghostOf (p : Params) (ctrl : BitVec 32) (fd : FrameDesc) (cyc : Grid Nat) (h w : Nat) : Grid Bool :=
  if ctrlPerformMinmax ctrl then ghostMask (byBinning p.ghostW fd.bin.toNat) p.ghostTol cyc h w
  else Grid.build h w fun _ _ => false

/-- The maps that reach the quantizer: RN, the accumulators and G (40_commands.md R160). -/
structure PipelineMaps where
  rn : Grid NUM
  acc : Grid Accum
  ghost : Grid Bool
deriving DecidableEq, Repr

/-- The stages from the demodulator to the nearest-neighbour filter (40_commands.md R160). -/
def pipelineMaps (p : Params) (ctrl : BitVec 32) (fd : FrameDesc) (fr : BinnedFrame) : PipelineMaps :=
  let kernel := kernelOf p fd.bin.toNat
  let ph0 := phaseMap fr.x0 fr.h fr.w
  let ph1 := phaseMap fr.x1 fr.h fr.w
  let sp0 := phaseMap (smooth kernel fr.x0 fr.h fr.w) fr.h fr.w
  let sp1 := phaseMap (smooth kernel fr.x1 fr.h fr.w) fr.h fr.w
  let cp0 := correctedMap ph0 sp0 fr.h fr.w
  let cp1 := correctedMap ph1 sp1 fr.h fr.w
  let cyc := cycleMap fd sp0 sp1 fr.h fr.w
  let rng := rangeMap fd cyc sp0 sp1 cp0 cp1 fr.h fr.w
  { rn := filteredRange p ctrl fd rng fr.h fr.w
    acc := demodBoth fr
    ghost := ghostOf p ctrl fd cyc fr.h fr.w }

/-- `frame_pipeline(v)` (40_commands.md R160). -/
def framePipeline (p : Params) (ctrl : BitVec 32) (snrThreshold : NUM) (ctx : Context) : Context :=
  let fr := finalRaw ctx
  let maps := pipelineMaps p ctrl ctx.fd fr
  { quantize ctrl snrThreshold ctx maps.rn maps.acc maps.ghost fr.h fr.w with
    desc := descriptorOf ctx.fd fr.h fr.w
    hasOutput := true
    frameCount := ctx.frameCount + 1
    frameOpen := false }

end Sys2Proof.Machine
end

