-- ==== Sys2Proof/Machine/Roi.lean ====
section
/-! DEFINITION. The ROI command (40_commands.md R155 to R158): validation, sequencing, and the meaning. -/

namespace Sys2Proof.Machine

/-- What `validate(rec)` answers (40_commands.md R157). -/
inductive Validation where
  /-- FATAL at steps 1 and 2: no virtual sensor can be attributed. -/
  | unattributed (reason : Reason)
  /-- FATAL at steps 3 to 9, attributed to virtual sensor `v`. -/
  | malformed (v : Nat) (reason : Reason)
  | valid (v : Nat) (roi : RoiRecord)
deriving DecidableEq, Repr

/-- Step 6: window and ROI extent (40_commands.md R157). -/
def geometryLegal (p : Params) (h : RoiHeader) : Bool :=
  1 ≤ h.rows && 1 ≤ h.winNrows.toNat && h.winNrows.toNat ≤ p.maxRows.val
    && 1 ≤ h.cols && h.cols ≤ p.maxCols.val
    && h.winRow0.toNat ≤ h.startRow.toNat
    && h.startRow.toNat + h.rows ≤ h.winRow0.toNat + h.winNrows.toNat
    && 1 ≤ h.cols / h.bin && (h.mode == .stripe || 1 ≤ h.winNrows.toNat / h.bin)

/-- Step 7: counts and frequencies (40_commands.md R157). -/
def frequenciesLegal (h : RoiHeader) : Bool :=
  1 ≤ h.n0.toNat && h.n1.toNat == h.n0.toNat + 1
    && h.freq0.isFinite && NUM.one.le h.freq0 && h.freq1.isFinite && h.freq0.lt h.freq1

/-- Step 8: the record's length (40_commands.md R157). -/
def lengthLegal (h : RoiHeader) (recLen : Nat) : Bool :=
  h.payloadLen.toNat == 6 * h.rotations * h.rows * h.cols && recLen == 12 + h.payloadLen.toNat

/-- Step 9: every sample is below 2^RAW_BITS (40_commands.md R157). -/
def samplesLegal (p : Params) (payload : List Word) : Bool := payload.all fun x => x.toNat < 2 ^ p.rawBits.val

/-- Steps 3 to 9 in order (40_commands.md R157): the reason of the first that fails. -/
def headerFault (p : Params) (record : List Word) : Option Reason :=
  let h := headerOf record
  if !reservedHeaderZero record then some .hdrReserved
  else if h.rotations = 0 then some .badNrot
  else if h.bin = 0 then some .badBinning
  else if !geometryLegal p h then some .badGeometry
  else if !frequenciesLegal h then some .badFreq
  else if !lengthLegal h record.length then some .badLength
  else if !samplesLegal p (record.drop 12) then some .rawRange
  else none

/-- `validate(rec)` (40_commands.md R157). -/
def validate (p : Params) (numVs : Nat) (record : List Word) : Validation :=
  if record.length < 12 then .unattributed .badLength
  else if numVs ≤ (headerOf record).vsid.toNat then .unattributed .badVsid
  else
    match headerFault p record with
    | some reason => .malformed (headerOf record).vsid.toNat reason
    | none => .valid (headerOf record).vsid.toNat (roiOf record)

/-- The result of an attributed ROI: its RESULT, its REASON, and the context it leaves. -/
structure RoiOutcome where
  result : Result
  reason : Reason
  ctx : Context
deriving DecidableEq, Repr

/-- `fatal(v, reason); return (FATAL, reason)` (40_commands.md R158). -/
def fatalOutcome (ctx : Context) (reason : Reason) : RoiOutcome := ⟨.fatal, reason, ctx.fatal reason⟩

/-- Steps 7 and 8 (40_commands.md R158): run the frame pipeline when the ROI completes the frame. -/
def completeStep (p : Params) (ctrl : BitVec 32) (snrThreshold : NUM) (ctx : Context) (h : RoiHeader) : RoiOutcome :=
  if h.frameCompleted then ⟨.emit, .none, framePipeline p ctrl snrThreshold ctx⟩ else ⟨.ok, .none, ctx⟩

/-- Step 6 (40_commands.md R158): assemble the ROI into the open frame. -/
def assembleStep (p : Params) (ctrl : BitVec 32) (snrThreshold : NUM) (ctx : Context) (e : RoiView) : RoiOutcome :=
  match ctx.fd.mode with
  | .grid => completeStep p ctrl snrThreshold (gridAccumulate ctx e) e.header
  | .stripe =>
    match stripeAccumulate p ctrl ctx e with
    | none => fatalOutcome ctx .stripeOverflow
    | some ctx' => completeStep p ctrl snrThreshold ctx' e.header

/-- Step 5 (40_commands.md R158): open a frame, or join the open one, or skip. -/
def frameStep (p : Params) (ctrl : BitVec 32) (snrThreshold : NUM) (ctx : Context) (e : RoiView) : RoiOutcome :=
  if e.header.firstOfFrame then assembleStep p ctrl snrThreshold (openFrame ctx e.header) e
  else if ctx.frameOpen = false then
    ⟨.skip, if e.header.frameCompleted then .completeWithoutFirst else .noFirstRoi, ctx⟩
  else if !frameMatch ctx.fd e.header then fatalOutcome ctx .frameMismatch
  else assembleStep p ctrl snrThreshold ctx e

/-- `sequence(v, roi)` (40_commands.md R158). -/
def sequenceRoi (p : Params) (ctrl : BitVec 32) (snrThreshold : NUM) (ctx : Context) (roi : RoiRecord) : RoiOutcome :=
  match condition p ctrl ctx roi with
  | .stored ctx' => ⟨.skip, .hdrStored, ctx'⟩
  | .badShape ctx' => fatalOutcome ctx' .hdrShape
  | .emitted ctx' out => frameStep p ctrl snrThreshold ctx' (derotate out)

/-- The end of an attributed ROI command: the context is recorded and the response returned (40_commands.md R155). -/
def State.finishRoi (s : State) (v : Nat) (o : RoiOutcome) : State :=
  (s.setCtx v (o.ctx.record o.result o.reason)).respond o.result o.reason 0

/-- ROI record (40_commands.md R155). -/
def roiState (f : CmdFields) (record : List Word) (s : State) : State :=
  if f.vs != 0 || f.sel != 0 || f.imm != 0 || f.arg.extractLsb' 32 32 != 0 then s.reject .reservedField
  else
    match validate s.params s.numVs record with
    | .unattributed reason => s.respond .fatal reason 0
    | .malformed v reason => s.finishRoi v (fatalOutcome (s.ctx v) reason)
    | .valid v roi => s.finishRoi v (sequenceRoi s.params s.ctrl s.snrThreshold (s.ctx v) roi)

/-- The meaning of ROI. -/
def execRoi (f : CmdFields) (record : List Word) (s : State) : Host.Outcome State Fault Refusal :=
  .next (roiState f record s)

end Sys2Proof.Machine
end

