-- ==== Sys2Proof/Machine/Dispatch.lean ====
section
/-! DEFINITION. The meaning of every command: one direct call each. -/

namespace Sys2Proof.Machine

/-- Execute one command (40_commands.md R150 to R165). -/
def exec (i : Instr) (s : State) : Host.Outcome State Fault Refusal :=
  match i with
  | .nop f => Sys2Proof.Machine.execNop f s
  | .reset f => Sys2Proof.Machine.execReset f s
  | .vsreset f => Sys2Proof.Machine.execVsreset f s
  | .wrreg f => Sys2Proof.Machine.execWrreg f s
  | .rdreg f => Sys2Proof.Machine.execRdreg f s
  | .roi f record => Sys2Proof.Machine.execRoi f record s
  | .rdout f => Sys2Proof.Machine.execRdout f s
  | .rddesc f => Sys2Proof.Machine.execRddesc f s
  | .wrmask f => Sys2Proof.Machine.execWrmask f s
  | .rdmask f => Sys2Proof.Machine.execRdmask f s

end Sys2Proof.Machine
end

