-- ==== Sys2Proof/Machine/Step.lean ====
section
/-! DEFINITION. One step of the engine: it reads one command from the CMD stream and executes it as one atomic transition
(00_scope.md R20, 20_memory.md R86). -/

namespace Sys2Proof.Machine

/-- One step. With no whole command in the stream the engine waits and nothing changes (60_exceptions.md R416, log
entry 4); a reserved opcode is answered REJECT BAD_OPCODE (30_encoding.md R103); a command is executed on the state
whose stream is what follows it. -/
def step (s : State) : Host.Outcome State Fault Refusal :=
  match decode s.stream with
  | .incomplete => .next s
  | .badOpcode rest => .next (State.reject { s with stream := rest } .badOpcode)
  | .instr i rest => exec i { s with stream := rest }

/-- The state with one command at the head of the CMD stream: the command whose bits are the low `nbits` bits of `w`. -/
def State.withFetchWord (s : State) (nbits w : Nat) : State := { s with stream := commandWords nbits w ++ s.stream }

end Sys2Proof.Machine
end

