-- ==== Sys2Proof/Safety.lean ====
section
/-! DEFINITION. The terms statements are made in: the value of a NUM, legal parameters (00_scope.md R9), and what every
state of a run satisfies (`State.inv`): registers hold legal values, maps are canonical and inside their bounds, an
open frame has a legal descriptor, a held ROI is one that passed validation, results and reasons go together. -/

namespace Sys2Proof

/-- The value of a finite NUM as a rational number; 0 for a NaN or an infinity. -/
def NUM.toRat (x : NUM) : ℚ :=
  match x.unpack with
  | .fin neg m e => (if neg then -1 else 1) * (m : ℚ) * (2 : ℚ) ^ e
  | .nan => 0
  | .inf _ => 0

/-- Every index of a two-dimensional map is a pixel `(r, c)` with `r < rows` and `c < cols`. -/
def Memory.inside {α : Type} (rows cols : Nat) (m : Memory α) : Bool :=
  m.all fun e => decide (e.1 / 2 ^ 32 < rows) && decide (e.1 % 2 ^ 32 < cols)

/-- Every index of a one-dimensional map is below `rows`. -/
def Memory.below {α : Type} (rows : Nat) (m : Memory α) : Bool := m.all fun e => decide (e.1 < rows)

/-- The magnitude of a finite NUM in units of 2^-1074, exactly. -/
def NUM.magnitudeUnits (x : NUM) : Nat :=
  match x.unpack with
  | .fin _ m e => m * 2 ^ (e + 1074).toNat
  | .nan => 0
  | .inf _ => 0

/-- P6 (00_scope.md R9): odd length, symmetric, finite, and the magnitudes sum to at most 2^64. -/
def kernelLegal (k : List NUM) : Bool :=
  k.length % 2 == 1 && k == k.reverse && k.all NUM.isFinite
    && decide ((k.map NUM.magnitudeUnits).sum ≤ 2 ^ (64 + 1074))

/-- A tolerance (00_scope.md R9 P9, P13, P14): finite and at least 0. -/
def toleranceLegal (x : NUM) : Bool := x.isFinite && NUM.zero.le x

/-- The legal ranges of the construction parameters (00_scope.md R9); 2^-500 is 0x20B0000000000000. -/
def Params.legal (p : Params) : Bool :=
  decide (1 ≤ p.maxRows.val) && decide (1 ≤ p.maxCols.val) && decide (1 ≤ p.rawBits.val) && p.satThresh.isFinite
    && kernelLegal p.kernel0 && kernelLegal p.kernel1 && kernelLegal p.kernel2
    && p.ghostW.length == 255 && p.ghostW.all (fun n => decide (1 ≤ n)) && toleranceLegal p.ghostTol
    && p.medWStripe.length == 255 && p.medWStripe.all (fun n => n % 2 == 1)
    && p.medWGrid.length == 255 && p.medWGrid.all (fun n => n % 2 == 1)
    && p.nnTable.length == 5 && p.nnTable.all (fun e => decide (1 ≤ e.1))
    && toleranceLegal p.nnAbsTol && toleranceLegal p.nnPropTol
    && p.gaussSigma.isFinite && NUM.le ⟨0x20B0000000000000⟩ p.gaussSigma

namespace Machine

/-- Which REASON goes with which RESULT (30_encoding.md R108, its column "with RESULT"). -/
def pairLegal (result : Result) (reason : Reason) : Bool :=
  match reason with
  | .none => result == .ok || result == .emit
  | .hdrStored | .noFirstRoi | .completeWithoutFirst => result == .skip
  | .badLength | .hdrReserved | .badVsid | .badGeometry | .badFreq | .rawRange | .frameMismatch | .stripeOverflow
  | .hdrShape | .badNrot | .badBinning => result == .fatal
  | .badOpcode | .badReg | .readOnly | .illegalValue | .badVs | .badIndex | .reservedField | .noOutput =>
    result == .reject

/-- A response the block may return (30_encoding.md R106, R108): DATA is 0 unless RESULT is OK. -/
def Response.legal (r : Response) : Bool := pairLegal r.result r.reason && (r.result == .ok || r.data == 0)

/-- A header and payload that 40_commands.md R157 accepts. -/
def RoiRecord.legal (p : Params) (roi : RoiRecord) : Bool :=
  roi.header.rotations != 0 && roi.header.bin != 0 && geometryLegal p roi.header && frequenciesLegal roi.header
    && lengthLegal roi.header (12 + roi.payload.length) && samplesLegal p roi.payload

/-- The descriptor of an open frame: what 40_commands.md R157 checked of the ROI that opened it. -/
def FrameDesc.legal (p : Params) (fd : FrameDesc) : Bool :=
  fd.bin != 0 && decide (1 ≤ fd.winNrows.toNat) && decide (fd.winNrows.toNat ≤ p.maxRows.val)
    && decide (1 ≤ fd.winNcols.toNat) && decide (fd.winNcols.toNat ≤ p.maxCols.val)
    && decide (1 ≤ fd.outCols) && (fd.mode == .stripe || decide (1 ≤ fd.gridRows))
    && decide (1 ≤ fd.n0.toNat) && fd.n1.toNat == fd.n0.toNat + 1
    && fd.f0.isFinite && NUM.one.le fd.f0 && fd.f1.isFinite && fd.f0.lt fd.f1

/-- Every stored map of a context is in its canonical form. -/
def Context.memoryCanonical (c : Context) : Bool :=
  Memory.wf false c.active && Memory.wf Taps.zero c.raw0 && Memory.wf Taps.zero c.raw1 && Memory.wf NUM.negInf c.vote
    && Memory.wf Taps.zero c.srow0 && Memory.wf Taps.zero c.srow1 && Memory.wf NUM.zero c.snorm
    && Memory.wf 0 c.outRange && Memory.wf 0 c.outSignal && Memory.wf 0 c.outBackground && Memory.wf 0 c.outSnr
    && Memory.wf true c.pmask

/-- Every stored map of a context lists only entries the spec gives it (10_state.md R44 to R49); an output map only
entries of the frame it describes (47_quantizer.md R357). -/
def Context.memoryInside (p : Params) (c : Context) : Bool :=
  Memory.below p.maxRows.val c.active
    && Memory.inside p.maxRows.val p.maxCols.val c.raw0 && Memory.inside p.maxRows.val p.maxCols.val c.raw1
    && Memory.inside p.maxRows.val p.maxCols.val c.vote
    && Memory.inside p.maxRows.val p.maxCols.val c.srow0 && Memory.inside p.maxRows.val p.maxCols.val c.srow1
    && Memory.inside p.maxRows.val p.maxCols.val c.snorm
    && Memory.inside c.desc.outRows.toNat c.desc.outCols.toNat c.outRange
    && Memory.inside c.desc.outRows.toNat c.desc.outCols.toNat c.outSignal
    && Memory.inside c.desc.outRows.toNat c.desc.outCols.toNat c.outBackground
    && Memory.inside c.desc.outRows.toNat c.desc.outCols.toNat c.outSnr
    && Memory.inside p.maxRows.val p.maxCols.val c.pmask

/-- Registers, counters and status of a context hold values the spec allows (10_state.md R34, R35, R47, R48, R50). -/
def Context.registersLegal (p : Params) (c : Context) : Bool :=
  c.rangeOffset.isFinite && !c.rangeLimit.isNaN && decide (c.stripeCount ≤ p.maxRows.val)
    && decide (c.desc.outRows.toNat ≤ p.maxRows.val) && decide (c.desc.outCols.toNat ≤ p.maxCols.val)
    && c.lastResult != .reject && pairLegal c.lastResult c.lastReason
    && (c.hasOutput || (c.frameCount == 0 && c.desc == Descriptor.reset))

/-- The delay line holds a validated stripe ROI or nothing, and only a held ROI can be marked corrected (10_state.md
R41, R42; 41_roi_conditioner.md R202 to R204). -/
def Context.delayLineLegal (p : Params) (c : Context) : Bool :=
  match c.hdrPrev with
  | none => !c.hdrCorrected
  | some roi => RoiRecord.legal p roi && roi.header.mode == .stripe

/-- An open frame has a legal descriptor, and the buffers of the other mode hold their reset contents (10_state.md R43
to R47, 42_frame_assembler.md R220). -/
def Context.frameLegal (p : Params) (c : Context) : Bool :=
  (!c.frameOpen || FrameDesc.legal p c.fd)
    && (match c.fd.mode with
      | .grid => c.stripeCount == 0 && c.srow0 == [] && c.srow1 == [] && c.snorm == []
      | .stripe => c.active == [] && c.raw0 == [] && c.raw1 == [] && c.vote == [])

/-- What every context of a run satisfies. -/
def Context.inv (p : Params) (c : Context) : Bool :=
  c.memoryCanonical && c.memoryInside p && c.registersLegal p && c.delayLineLegal p && c.frameLegal p

/-- Every stored map of the state is in its canonical form. -/
def State.memoryCanonical (s : State) : Bool := s.ctxs.all Context.memoryCanonical

/-- What every state of a run satisfies. -/
def State.inv (s : State) : Bool :=
  ctrlLegal (s.ctrl.setWidth 64) && !s.snrThreshold.isNaN && s.ctxs.all (Context.inv s.params)
    && s.resp.all Response.legal

/-- The virtual sensor a command addresses (20_memory.md R88): CMD.VS, or the header's VSID for a ROI; none for NOP,
RESET and a WRREG or RDREG of a register that is not per VS. -/
def addressed : Instr → Option Nat
  | .nop _ => none
  | .reset _ => none
  | .vsreset f => some (vsOf f)
  | .wrreg f => if (regOfNumber f.imm).any (fun r => !r.isGlobal) then some (vsOf f) else none
  | .rdreg f => if (regOfNumber f.imm).any (fun r => !r.isGlobal) then some (vsOf f) else none
  | .roi _ record => some (headerOf record).vsid.toNat
  | .rdout f => some (vsOf f)
  | .rddesc f => some (vsOf f)
  | .wrmask f => some (vsOf f)
  | .rdmask f => some (vsOf f)

/-- Two states agree on the block: they differ at most in the last response and in the words not yet read. -/
def State.sameBlock (s t : State) : Prop :=
  s.params = t.params ∧ s.ctrl = t.ctrl ∧ s.snrThreshold = t.snrThreshold ∧ s.ctxs = t.ctxs

/-- A command rejected with this reason: only the response changes (60_exceptions.md R401). -/
def rejects (s : State) (reason : Reason) : Host.Outcome State Fault Refusal :=
  .next { s with resp := some ⟨.reject, reason, 0⟩ }

/-- A command answered (OK, NONE, data) that changes nothing else. -/
def answers (s : State) (data : BitVec 64) : Host.Outcome State Fault Refusal :=
  .next { s with resp := some ⟨.ok, .none, data⟩ }

/-- The state after an attributed ROI command that left virtual sensor `v` in context `c` (40_commands.md R155). -/
def afterRoi (s : State) (v : Nat) (c : Context) (result : Result) (reason : Reason) :
    Host.Outcome State Fault Refusal :=
  .next { s with
    ctxs := s.ctxs.set v { c with lastResult := result, lastReason := reason }
    resp := some ⟨result, reason, 0⟩ }

/-- The ROI command's own fields are legal (30_encoding.md R104). -/
def roiFieldsLegal (f : CmdFields) : Bool := f.vs == 0 && f.sel == 0 && f.imm == 0 && f.arg.extractLsb' 32 32 == 0

/-- What the conditioner answered to a list of ROIs, and the context it left (41_roi_conditioner.md R207). -/
structure ConditionRun where
  ctx : Context
  /-- The emitted ROIs, in order. -/
  emitted : List RoiRecord
  /-- How many ROIs were answered `Skip(HDR_STORED)`. -/
  stored : Nat
  /-- How many ROIs were answered `Fatal(HDR_SHAPE)`. -/
  badShape : Nat
deriving DecidableEq, Repr

/-- One more answer, before those of a run. -/
def ConditionRun.after (answer : Conditioned) (run : ConditionRun) : ConditionRun :=
  match answer with
  | .emitted _ roi => { run with emitted := roi :: run.emitted }
  | .stored _ => { run with stored := run.stored + 1 }
  | .badShape _ => { run with badShape := run.badShape + 1 }

/-- The context an answer leaves. -/
def Conditioned.ctx : Conditioned → Context
  | .emitted c _ => c
  | .stored c => c
  | .badShape c => c

/-- The conditioner run over ROIs in arrival order (41_roi_conditioner.md R207). -/
def conditionAll (p : Params) (ctrl : BitVec 32) : Context → List RoiRecord → ConditionRun
  | ctx, [] => ⟨ctx, [], 0, 0⟩
  | ctx, roi :: rest =>
    ConditionRun.after (condition p ctrl ctx roi) (conditionAll p ctrl (condition p ctrl ctx roi).ctx rest)

end Machine

/-- `res` is a finite NUM nearest to the real number `v`, with an even last bit when another NUM is as near: "rounded
to nearest, ties to even" (00_scope.md R14). -/
def NUM.IsNearest (res : NUM) (v : ℝ) : Prop :=
  res.isFinite = true ∧
    ∀ z : NUM, z.isFinite = true →
      |(res.toRat : ℝ) - v| ≤ |(z.toRat : ℝ) - v| ∧
        (|(res.toRat : ℝ) - v| = |(z.toRat : ℝ) - v| → z.toRat ≠ res.toRat → res.bits.getLsbD 0 = false)

/-- Below this magnitude rounding to nearest gives a finite NUM: half a unit above the largest. -/
def NUM.InRange (v : ℝ) : Prop := |v| < (2 ^ 54 - 1) * 2 ^ 970

end Sys2Proof
end

