-- ==== Sys2Proof/Certificates/Slice0/Obligations.lean ====
section
/-! DEFINITION. The statements for the provers, from the numbered rules of spec/: encodings, the ten commands, the ROI
sequence and its stages, the arithmetic, and what every command keeps. Each docstring names the rules it formalises. -/

open Sys2Proof Sys2Proof.Machine

/-! ### Encoding -/

/-- 30_encoding.md R100, R101, R102, R127: an encoded command, with the record words R100 asks for, is read back whole,
and what follows it is left in the stream. -/
def Obligations.DecodeReadsBackEncode : Prop :=
  ∀ (i : Instr) (rest : List Word), i.recordFits = true → decode (encode i ++ rest) = .instr i rest

/-- 30_encoding.md R100, R101, R127: the other direction; a decoded command's encoding is the words it was read from. -/
def Obligations.EncodeRebuildsDecodedWords : Prop :=
  ∀ (ws : List Word) (i : Instr) (rest : List Word),
    decode ws = .instr i rest → encode i ++ rest = ws ∧ i.recordFits = true

/-- 30_encoding.md R127: its words, written out, decode to the commands they stand for (program lines of
95_test_vectors.md P3 and P4). -/
def Obligations.WrittenWordsDecode : Prop :=
  decode [0x03100010#32, 0x00000000#32, 0x3FE00000#32] = .instr (.wrreg ⟨1, 0, 0x0010, 0x3FE0000000000000⟩) [] ∧
  decode [0x07140000#32, 0#32, 0#32] = .instr (.rddesc ⟨1, 4, 0, 0⟩) [] ∧
  decode [0x06130000#32, 1#32, 2#32] = .instr (.rdout ⟨1, 3, 0, 0x0000000200000001⟩) [] ∧
  decode [0x05000000#32, 2#32, 0#32, 7#32, 8#32, 0x02000000#32] = .instr (.roi ⟨0, 0, 0, 2⟩ [7, 8]) [0x02000000] ∧
  decode [0x0A000000#32, 0#32, 0#32] = .badOpcode []

/-- 20_memory.md R86, 30_encoding.md R100: when the stream begins with a whole command, the step is that command's
meaning on the state whose stream is what follows it. -/
def Obligations.StepRunsDecodedCommand : Prop :=
  ∀ (s : State) (i : Instr) (rest : List Word),
    decode s.stream = .instr i rest → step s = exec i { s with stream := rest }

/-- 30_encoding.md R103 with R100: a reserved opcode is rejected with BAD_OPCODE, changes no state, and takes no record.
That the opcode and its ARG are three words of the stream is the model's choice (log entry 3). -/
def Obligations.ReservedOpcodeIsRejected : Prop :=
  ∀ (s : State) (cmd argLow argHigh : Word) (rest : List Word),
    s.stream = cmd :: argLow :: argHigh :: rest → 0x0A ≤ (cmd.extractLsb' 24 8).toNat →
      step s = .next { s with stream := rest, resp := some ⟨.reject, .badOpcode, 0⟩ }

/-- 60_exceptions.md R400, 20_memory.md R90: the block never stops. A step with no whole command to read waits, which
is the model's choice (log entry 4). -/
def Obligations.EveryStepCompletes : Prop :=
  (∀ s : State, ∃ t, step s = .next t) ∧ ∀ s : State, decode s.stream = .incomplete → step s = .next s

/-! ### Results that hold of every command -/

/-- 30_encoding.md R104: a command with a nonzero field it does not use is rejected and no state changes. -/
def Obligations.ReservedFieldsAreRejected : Prop :=
  ∀ (i : Instr) (s : State), i.fieldsLegal = false → exec i s = rejects s .reservedField

/-- 60_exceptions.md R401: a rejected command changes no state at all, and its DATA is 0. -/
def Obligations.RejectChangesNoState : Prop :=
  ∀ (i : Instr) (s t : State) (r : Response),
    exec i s = .next t → t.resp = some r → r.result = .reject → r.data = 0 ∧ t = { s with resp := some r }

/-! ### The ten commands -/

/-- 40_commands.md R150. -/
def Obligations.NopAnswersOk : Prop :=
  ∀ (f : CmdFields) (s : State),
    (f.vs = 0 ∧ f.sel = 0 ∧ f.imm = 0 ∧ f.arg = 0 → exec (.nop f) s = answers s 0) ∧
    (¬(f.vs = 0 ∧ f.sel = 0 ∧ f.imm = 0 ∧ f.arg = 0) → exec (.nop f) s = rejects s .reservedField)

/-- 40_commands.md R151 with 30_encoding.md R104: every register, context, output and mask takes its reset value; the
parameters and the number of virtual sensors stay. That the words not yet read stay is the model's choice (log entry
3). -/
def Obligations.ResetCommandRestoresPowerOn : Prop :=
  ∀ (f : CmdFields) (s : State),
    (f.vs = 0 ∧ f.sel = 0 ∧ f.imm = 0 ∧ f.arg = 0 →
      exec (.reset f) s = .next
        { params := s.params, ctrl := 0, snrThreshold := ⟨0⟩
          ctxs := List.replicate s.ctxs.length (Context.reset)
          resp := some ⟨.ok, .none, 0⟩, stream := s.stream }) ∧
    (¬(f.vs = 0 ∧ f.sel = 0 ∧ f.imm = 0 ∧ f.arg = 0) → exec (.reset f) s = rejects s .reservedField)

/-- 10_state.md R54: the value of every piece of state after power-on reset and after the RESET command, for every device.
The number of virtual sensors and the parameters are the device's. That RESET leaves the words not yet read is the
model's choice (log entry 3). -/
def Obligations.ResetValues : Prop :=
  (∀ (f : CmdFields) (s : State), f.vs = 0 → f.sel = 0 → f.imm = 0 → f.arg = 0 →
    exec (.reset f) s =
      .next { State.powerOn s.params s.ctxs.length with resp := some ⟨.ok, .none, 0⟩, stream := s.stream }) ∧
  ∀ (p : Params) (n : Nat),
    (State.powerOn p n).params = p ∧ (State.powerOn p n).ctrl = 0 ∧ (State.powerOn p n).snrThreshold.bits = 0 ∧
    (State.powerOn p n).ctxs.length = n ∧
    ∀ c ∈ (State.powerOn p n).ctxs,
      c.rangeOffset.bits = 0 ∧ c.rangeLimit.bits = 0x7FF0000000000000 ∧ c.frameCount = 0 ∧ c.status = 0 ∧
      c.frameOpen = false ∧ c.hdrCorrected = false ∧ c.hasOutput = false ∧ c.fatalSticky = false ∧
      c.hdrPrev = none ∧ c.stripeCount = 0 ∧ c.lastResult.code = 0 ∧ c.lastReason.code = 0 ∧
      c.fd = ⟨.grid, 0, 0, 0, 0, 0, 0, 0, ⟨0⟩, ⟨0⟩, 0, 0⟩ ∧ c.desc = ⟨0, 0, 0, 0, 0, 0⟩ ∧
      ∀ k, Memory.read false c.active k = false ∧
        Memory.read Taps.zero c.raw0 k = ⟨⟨0⟩, ⟨0⟩, ⟨0⟩⟩ ∧ Memory.read Taps.zero c.raw1 k = ⟨⟨0⟩, ⟨0⟩, ⟨0⟩⟩ ∧
        Memory.read Taps.zero c.srow0 k = ⟨⟨0⟩, ⟨0⟩, ⟨0⟩⟩ ∧ Memory.read Taps.zero c.srow1 k = ⟨⟨0⟩, ⟨0⟩, ⟨0⟩⟩ ∧
        Memory.read NUM.zero c.snorm k = ⟨0⟩ ∧ Memory.read NUM.negInf c.vote k = ⟨0xFFF0000000000000⟩ ∧
        Memory.read 0 c.outRange k = 0 ∧ Memory.read 0 c.outSignal k = 0 ∧ Memory.read 0 c.outBackground k = 0 ∧
        Memory.read 0 c.outSnr k = 0 ∧ Memory.read true c.pmask k = true

/-- 40_commands.md R152 with 70_reset_and_hazards.md R432. -/
def Obligations.VsresetRestartsContext : Prop :=
  ∀ (f : CmdFields) (s : State),
    (¬(f.sel = 0 ∧ f.imm = 0 ∧ f.arg = 0) → exec (.vsreset f) s = rejects s .reservedField) ∧
    (f.sel = 0 → f.imm = 0 → f.arg = 0 → s.ctxs.length ≤ f.vs.toNat → exec (.vsreset f) s = rejects s .badVs) ∧
    ∀ c, f.sel = 0 → f.imm = 0 → f.arg = 0 → s.ctxs[f.vs.toNat]? = some c →
      exec (.vsreset f) s = .next
        { s with
          ctxs := s.ctxs.set f.vs.toNat
            { Context.reset with
              rangeOffset := c.rangeOffset, rangeLimit := c.rangeLimit, frameCount := c.frameCount
              hasOutput := c.hasOutput, outRange := c.outRange, outSignal := c.outSignal
              outBackground := c.outBackground, outSnr := c.outSnr, desc := c.desc, pmask := c.pmask }
          resp := some ⟨.ok, .none, 0⟩ }

/-- 40_commands.md R153: the rejections in their order, and the four writes. -/
def Obligations.WrregWritesRegister : Prop :=
  ∀ (f : CmdFields) (s : State),
    let r := f.imm.toNat
    let x := f.arg
    let isGlobal := r = 0x00 ∨ r = 0x01 ∨ r = 0x40 ∨ r = 0x41 ∨ r = 0x42 ∨ r = 0x43
    let perVs := r = 0x10 ∨ r = 0x11 ∨ r = 0x20 ∨ r = 0x21
    let readOnly := r = 0x20 ∨ r = 0x21 ∨ r = 0x40 ∨ r = 0x41 ∨ r = 0x42 ∨ r = 0x43
    (f.sel ≠ 0 → exec (.wrreg f) s = rejects s .reservedField) ∧
    (f.sel = 0 →
      (¬isGlobal → ¬perVs → exec (.wrreg f) s = rejects s .badReg) ∧
      (isGlobal → f.vs ≠ 0 → exec (.wrreg f) s = rejects s .reservedField) ∧
      (perVs → s.ctxs.length ≤ f.vs.toNat → exec (.wrreg f) s = rejects s .badVs) ∧
      (isGlobal → f.vs = 0 → readOnly → exec (.wrreg f) s = rejects s .readOnly) ∧
      (perVs → f.vs.toNat < s.ctxs.length → readOnly → exec (.wrreg f) s = rejects s .readOnly) ∧
      (r = 0x00 → f.vs = 0 →
        (x.toNat / 2 ^ 10 = 0 ∧ x.toNat % 4 ≠ 3 ∧ x.toNat / 8 % 8 ≤ 5 →
          exec (.wrreg f) s = .next { s with ctrl := x.setWidth 32, resp := some ⟨.ok, .none, 0⟩ }) ∧
        (¬(x.toNat / 2 ^ 10 = 0 ∧ x.toNat % 4 ≠ 3 ∧ x.toNat / 8 % 8 ≤ 5) →
          exec (.wrreg f) s = rejects s .illegalValue)) ∧
      (r = 0x01 → f.vs = 0 →
        (NUM.isNaN ⟨x⟩ = false →
          exec (.wrreg f) s = .next { s with snrThreshold := ⟨x⟩, resp := some ⟨.ok, .none, 0⟩ }) ∧
        (NUM.isNaN ⟨x⟩ = true → exec (.wrreg f) s = rejects s .illegalValue)) ∧
      (∀ c, r = 0x10 → s.ctxs[f.vs.toNat]? = some c →
        (NUM.isFinite ⟨x⟩ = true →
          exec (.wrreg f) s = .next
            { s with ctxs := s.ctxs.set f.vs.toNat { c with rangeOffset := ⟨x⟩ }, resp := some ⟨.ok, .none, 0⟩ }) ∧
        (NUM.isFinite ⟨x⟩ = false → exec (.wrreg f) s = rejects s .illegalValue)) ∧
      (∀ c, r = 0x11 → s.ctxs[f.vs.toNat]? = some c →
        (NUM.isNaN ⟨x⟩ = false →
          exec (.wrreg f) s = .next
            { s with ctxs := s.ctxs.set f.vs.toNat { c with rangeLimit := ⟨x⟩ }, resp := some ⟨.ok, .none, 0⟩ }) ∧
        (NUM.isNaN ⟨x⟩ = true → exec (.wrreg f) s = rejects s .illegalValue)))

/-- 40_commands.md R154 (PARAM per 30_encoding.md R112): the rejections in their order, and the value of every
register. -/
def Obligations.RdregReadsRegister : Prop :=
  ∀ (f : CmdFields) (s : State),
    let r := f.imm.toNat
    let isGlobal := r = 0x00 ∨ r = 0x01 ∨ r = 0x40 ∨ r = 0x41 ∨ r = 0x42 ∨ r = 0x43
    let perVs := r = 0x10 ∨ r = 0x11 ∨ r = 0x20 ∨ r = 0x21
    (¬(f.sel = 0 ∧ f.arg = 0) → exec (.rdreg f) s = rejects s .reservedField) ∧
    (f.sel = 0 → f.arg = 0 →
      (¬isGlobal → ¬perVs → exec (.rdreg f) s = rejects s .badReg) ∧
      (isGlobal → f.vs ≠ 0 → exec (.rdreg f) s = rejects s .reservedField) ∧
      (perVs → s.ctxs.length ≤ f.vs.toNat → exec (.rdreg f) s = rejects s .badVs) ∧
      (f.vs = 0 →
        (r = 0x00 → exec (.rdreg f) s = answers s (s.ctrl.setWidth 64)) ∧
        (r = 0x01 → exec (.rdreg f) s = answers s s.snrThreshold.bits) ∧
        (r = 0x40 → exec (.rdreg f) s = answers s (BitVec.ofNat 64 s.ctxs.length)) ∧
        (r = 0x41 → exec (.rdreg f) s = answers s (BitVec.ofNat 64 s.params.maxRows.val)) ∧
        (r = 0x42 → exec (.rdreg f) s = answers s (BitVec.ofNat 64 s.params.maxCols.val)) ∧
        (r = 0x43 → exec (.rdreg f) s = answers s (BitVec.ofNat 64 s.params.rawBits.val))) ∧
      ∀ c, s.ctxs[f.vs.toNat]? = some c →
        (r = 0x10 → exec (.rdreg f) s = answers s c.rangeOffset.bits) ∧
        (r = 0x11 → exec (.rdreg f) s = answers s c.rangeLimit.bits) ∧
        (r = 0x20 → exec (.rdreg f) s = answers s c.status) ∧
        (r = 0x21 → exec (.rdreg f) s = answers s (c.frameCount.setWidth 64)))

/-- 30_encoding.md R113 with 10_state.md R36: every bit of STATUS. -/
def Obligations.StatusBitLayout : Prop :=
  ∀ c : Context,
    c.status.getLsbD 0 = c.frameOpen ∧ c.status.getLsbD 1 = c.hdrPrev.isSome ∧ c.status.getLsbD 2 = c.hdrCorrected ∧
    c.status.getLsbD 3 = c.fatalSticky ∧ c.status.getLsbD 4 = c.hasOutput ∧
    (c.status.getLsbD 5 = true ↔ c.frameOpen = true ∧ c.fd.mode = .stripe) ∧
    c.status.extractLsb' 6 2 = 0 ∧ c.status.extractLsb' 8 4 = c.lastResult.code ∧ c.status.extractLsb' 12 4 = 0 ∧
    c.status.extractLsb' 16 8 = c.lastReason.code ∧ c.status.extractLsb' 24 8 = 0 ∧
    c.status.extractLsb' 32 16 = BitVec.ofNat 16 c.stripeCount ∧ c.status.extractLsb' 48 16 = 0

/-- 40_commands.md R162. -/
def Obligations.RdoutReadsOutputWord : Prop :=
  ∀ (f : CmdFields) (s : State),
    let row := f.arg.toNat / 2 ^ 32
    let col := f.arg.toNat % 2 ^ 32
    let m := f.sel.toNat
    (f.imm ≠ 0 → exec (.rdout f) s = rejects s .reservedField) ∧
    (f.imm = 0 → s.ctxs.length ≤ f.vs.toNat → exec (.rdout f) s = rejects s .badVs) ∧
    ∀ c, f.imm = 0 → s.ctxs[f.vs.toNat]? = some c →
      (3 < m → exec (.rdout f) s = rejects s .badIndex) ∧
      (m ≤ 3 → c.hasOutput = false → exec (.rdout f) s = rejects s .noOutput) ∧
      (m ≤ 3 → c.hasOutput = true → (c.desc.outRows.toNat ≤ row ∨ c.desc.outCols.toNat ≤ col) →
        exec (.rdout f) s = rejects s .badIndex) ∧
      (c.hasOutput = true → row < c.desc.outRows.toNat → col < c.desc.outCols.toNat →
        (m = 0 → exec (.rdout f) s = answers s ((Memory.read 0 c.outRange (pixKey row col)).setWidth 64)) ∧
        (m = 1 → exec (.rdout f) s = answers s ((Memory.read 0 c.outSignal (pixKey row col)).setWidth 64)) ∧
        (m = 2 → exec (.rdout f) s = answers s ((Memory.read 0 c.outBackground (pixKey row col)).setWidth 64)) ∧
        (m = 3 → exec (.rdout f) s = answers s ((Memory.read 0 c.outSnr (pixKey row col)).setWidth 64)))

/-- 40_commands.md R163. -/
def Obligations.RddescReadsDescriptorField : Prop :=
  ∀ (f : CmdFields) (s : State),
    let k := f.sel.toNat
    (¬(f.imm = 0 ∧ f.arg = 0) → exec (.rddesc f) s = rejects s .reservedField) ∧
    (f.imm = 0 → f.arg = 0 → s.ctxs.length ≤ f.vs.toNat → exec (.rddesc f) s = rejects s .badVs) ∧
    ∀ c, f.imm = 0 → f.arg = 0 → s.ctxs[f.vs.toNat]? = some c →
      (5 < k → exec (.rddesc f) s = rejects s .badIndex) ∧
      (k ≤ 5 → c.hasOutput = false → exec (.rddesc f) s = rejects s .noOutput) ∧
      (c.hasOutput = true →
        (k = 0 → exec (.rddesc f) s = answers s (c.desc.outRows.setWidth 64)) ∧
        (k = 1 → exec (.rddesc f) s = answers s (c.desc.outCols.setWidth 64)) ∧
        (k = 2 → exec (.rddesc f) s = answers s (c.desc.topRow.setWidth 64)) ∧
        (k = 3 → exec (.rddesc f) s = answers s (c.desc.leftCol.setWidth 64)) ∧
        (k = 4 → exec (.rddesc f) s = answers s (c.desc.rowStep.setWidth 64)) ∧
        (k = 5 → exec (.rddesc f) s = answers s (c.desc.colStep.setWidth 64)))

/-- 40_commands.md R164: the rejections, and the write, with the frame of the mask: every other bit reads as before. -/
def Obligations.WrmaskWritesOneBit : Prop :=
  ∀ (f : CmdFields) (s : State),
    let row := f.arg.toNat / 2 ^ 32
    let col := f.arg.toNat % 2 ^ 32
    (¬(f.sel = 0 ∧ f.imm.toNat / 2 = 0) → exec (.wrmask f) s = rejects s .reservedField) ∧
    (f.sel = 0 → f.imm.toNat / 2 = 0 → s.ctxs.length ≤ f.vs.toNat → exec (.wrmask f) s = rejects s .badVs) ∧
    (f.sel = 0 → f.imm.toNat / 2 = 0 → f.vs.toNat < s.ctxs.length →
      (s.params.maxRows.val ≤ row ∨ s.params.maxCols.val ≤ col) → exec (.wrmask f) s = rejects s .badIndex) ∧
    ∀ c, f.sel = 0 → f.imm.toNat / 2 = 0 → s.ctxs[f.vs.toNat]? = some c → c.memoryCanonical = true →
      row < s.params.maxRows.val → col < s.params.maxCols.val →
        ∃ mask : Memory Bool,
          exec (.wrmask f) s = .next
            { s with ctxs := s.ctxs.set f.vs.toNat { c with pmask := mask }, resp := some ⟨.ok, .none, 0⟩ } ∧
          Memory.read true mask (pixKey row col) = decide (f.imm = 1) ∧
          ∀ k, k ≠ pixKey row col → Memory.read true mask k = Memory.read true c.pmask k

/-- 40_commands.md R165. -/
def Obligations.RdmaskReadsOneBit : Prop :=
  ∀ (f : CmdFields) (s : State),
    let row := f.arg.toNat / 2 ^ 32
    let col := f.arg.toNat % 2 ^ 32
    (¬(f.sel = 0 ∧ f.imm = 0) → exec (.rdmask f) s = rejects s .reservedField) ∧
    (f.sel = 0 → f.imm = 0 → s.ctxs.length ≤ f.vs.toNat → exec (.rdmask f) s = rejects s .badVs) ∧
    ∀ c, f.sel = 0 → f.imm = 0 → s.ctxs[f.vs.toNat]? = some c →
      (s.params.maxRows.val ≤ row ∨ s.params.maxCols.val ≤ col → exec (.rdmask f) s = rejects s .badIndex) ∧
      (row < s.params.maxRows.val → col < s.params.maxCols.val →
        exec (.rdmask f) s = answers s (if Memory.read true c.pmask (pixKey row col) then 1 else 0))

/-! ### The ROI command -/

/-- 40_commands.md R157: the nine checks in their order; the first that fails decides. When all hold, the header's fields are the bits of 30_encoding.md R120 and the samples the words of R121 (40_commands.md
R156). -/
def Obligations.ValidationStepsInOrder : Prop :=
  ∀ (p : Params) (n : Nat) (record : List Word),
    let w := fun k => record.getD k 0
    let v := ((w 0).extractLsb' 0 4).toNat
    let nrot := ((w 0).extractLsb' 10 2).toNat
    let stripe := (w 0).getLsbD 8
    let b := ((w 0).extractLsb' 16 8).toNat
    let startRow := (w 1).toNat % 2 ^ 16
    let nRows := (w 1).toNat / 2 ^ 16
    let winRow0 := (w 2).toNat % 2 ^ 16
    let winNrows := (w 2).toNat / 2 ^ 16
    let winNcols := (w 3).toNat / 2 ^ 16
    let n0 := (w 4).toNat % 2 ^ 16
    let n1 := (w 4).toNat / 2 ^ 16
    let freq0 : NUM := ⟨w 6 ++ w 5⟩
    let freq1 : NUM := ⟨w 8 ++ w 7⟩
    let c3 := (w 0).extractLsb' 12 4 = 0 ∧ (w 0).extractLsb' 24 8 = 0 ∧ w 10 = 0 ∧ w 11 = 0
    let c6 := 1 ≤ nRows ∧ 1 ≤ winNrows ∧ winNrows ≤ p.maxRows.val ∧ 1 ≤ winNcols ∧ winNcols ≤ p.maxCols.val ∧
      winRow0 ≤ startRow ∧ startRow + nRows ≤ winRow0 + winNrows ∧ 1 ≤ winNcols / b ∧
      (stripe = false → 1 ≤ winNrows / b)
    let c7 := 1 ≤ n0 ∧ n1 = n0 + 1 ∧ freq0.isFinite = true ∧ NUM.one.le freq0 = true ∧ freq1.isFinite = true ∧
      freq0.lt freq1 = true
    let c8 := (w 9).toNat = 6 * nrot * nRows * winNcols ∧ record.length = 12 + (w 9).toNat
    let c9 := ∀ x ∈ record.drop 12, x.toNat < 2 ^ p.rawBits.val
    (record.length < 12 → validate p n record = .unattributed .badLength) ∧
    (12 ≤ record.length →
      (n ≤ v → validate p n record = .unattributed .badVsid) ∧
      (v < n →
        (¬c3 → validate p n record = .malformed v .hdrReserved) ∧
        (c3 → nrot = 0 → validate p n record = .malformed v .badNrot) ∧
        (c3 → nrot ≠ 0 → b = 0 → validate p n record = .malformed v .badBinning) ∧
        (c3 → nrot ≠ 0 → b ≠ 0 → ¬c6 → validate p n record = .malformed v .badGeometry) ∧
        (c3 → nrot ≠ 0 → b ≠ 0 → c6 → ¬c7 → validate p n record = .malformed v .badFreq) ∧
        (c3 → nrot ≠ 0 → b ≠ 0 → c6 → c7 → ¬c8 → validate p n record = .malformed v .badLength) ∧
        (c3 → nrot ≠ 0 → b ≠ 0 → c6 → c7 → c8 → ¬c9 → validate p n record = .malformed v .rawRange) ∧
        (c3 → nrot ≠ 0 → b ≠ 0 → c6 → c7 → c8 → c9 →
          ∃ roi, validate p n record = .valid v roi ∧ roi.payload = record.drop 12 ∧
            roi.header =
              { vsid := (w 0).extractLsb' 0 4, firstOfFrame := (w 0).getLsbD 4, frameCompleted := (w 0).getLsbD 5
                hdrDisabled := (w 0).getLsbD 6, prevSaturated := (w 0).getLsbD 7
                mode := if stripe then .stripe else .grid, tapAccum := (w 0).getLsbD 9
                nrot := (w 0).extractLsb' 10 2, binning := (w 0).extractLsb' 16 8
                startRow := (w 1).extractLsb' 0 16, nRows := (w 1).extractLsb' 16 16
                winRow0 := (w 2).extractLsb' 0 16, winNrows := (w 2).extractLsb' 16 16
                winCol0 := (w 3).extractLsb' 0 16, winNcols := (w 3).extractLsb' 16 16
                n0 := (w 4).extractLsb' 0 16, n1 := (w 4).extractLsb' 16 16, freq0 := freq0, freq1 := freq1
                payloadLen := w 9 } ∧
            ∀ f j i c t, f < 2 → j < nrot → i < nRows → c < winNcols → t < 3 →
              roi.raw f j i c t = (w (12 + ((((f * nrot + j) * nRows + i) * winNcols + c) * 3 + t))).toNat)))

/-- 40_commands.md R155 with 60_exceptions.md R403: a record that fails validation is answered FATAL; without an
attributed virtual sensor no state changes, with one its context takes the FATAL effect. -/
def Obligations.MalformedRoiAnswersFatal : Prop :=
  ∀ (f : CmdFields) (record : List Word) (s : State) (reason : Reason),
    roiFieldsLegal f = true →
      (validate s.params s.ctxs.length record = .unattributed reason →
        exec (.roi f record) s = .next { s with resp := some ⟨.fatal, reason, 0⟩ }) ∧
      ∀ v c, validate s.params s.ctxs.length record = .malformed v reason → s.ctxs[v]? = some c →
        exec (.roi f record) s = afterRoi s v
          { c with
            frameOpen := false, hdrPrev := none, hdrCorrected := false, fatalSticky := true
            lastResult := .fatal, lastReason := reason } .fatal reason

/-- 60_exceptions.md R403: the two scopes of FATAL. Steps 1 and 2 change no state; every later FATAL closes the frame,
empties the delay line, sets the sticky bit, records itself, and leaves the rest of the context and every other virtual
sensor alone. The invariant rules out a held ROI that was never validated. -/
def Obligations.FatalEffect : Prop :=
  ∀ (f : CmdFields) (record : List Word) (s t : State) (r : Response),
    s.inv = true → exec (.roi f record) s = .next t → t.resp = some r → r.result = .fatal →
      ((record.length < 12 ∨ s.ctxs.length ≤ (headerOf record).vsid.toNat) ∧
        t = { s with resp := some ⟨.fatal, r.reason, 0⟩ }) ∨
      12 ≤ record.length ∧ ∃ c, s.ctxs[(headerOf record).vsid.toNat]? = some c ∧
        t = { s with
          ctxs := s.ctxs.set (headerOf record).vsid.toNat
            { c with
              frameOpen := false, hdrPrev := none, hdrCorrected := false, fatalSticky := true
              lastResult := .fatal, lastReason := r.reason }
          resp := some ⟨.fatal, r.reason, 0⟩ }

/-- 60_exceptions.md R402: a skipped ROI changes nothing of its virtual sensor but the delay line and the recorded
result, and nothing of any other. -/
def Obligations.SkipEffect : Prop :=
  ∀ (f : CmdFields) (record : List Word) (s t : State) (r : Response),
    exec (.roi f record) s = .next t → t.resp = some r → r.result = .skip →
      (r.reason = .hdrStored ∨ r.reason = .noFirstRoi ∨ r.reason = .completeWithoutFirst) ∧
      ∃ c prev corrected, s.ctxs[(headerOf record).vsid.toNat]? = some c ∧
        t = { s with
          ctxs := s.ctxs.set (headerOf record).vsid.toNat
            { c with hdrPrev := prev, hdrCorrected := corrected, lastResult := .skip, lastReason := r.reason }
          resp := some ⟨.skip, r.reason, 0⟩ }

/-- 41_roi_conditioner.md R202, with the condition of R200 (CTRL bit 2 is HDR_ENABLED, 30_encoding.md R111): an HDR-active
ROI with nothing held, or right after a merge, is stored and skipped. -/
def Obligations.HdrRoiIsStored : Prop :=
  ∀ (f : CmdFields) (record : List Word) (s : State) (v : Nat) (roi : RoiRecord) (c : Context),
    roiFieldsLegal f = true → validate s.params s.ctxs.length record = .valid v roi → s.ctxs[v]? = some c →
    s.ctrl.getLsbD 2 = true → roi.header.hdrDisabled = false → roi.header.mode = .stripe →
    (c.hdrPrev = none ∨ c.hdrCorrected = true) →
      exec (.roi f record) s = afterRoi s v { c with hdrPrev := some roi, hdrCorrected := false } .skip .hdrStored

/-- 41_roi_conditioner.md R200, R203, R204 with 40_commands.md R158: with a ROI held, an HDR-active ROI that is no retake
takes its place, and the held ROI goes on to the assembler; a retake of the same shape sends the merged ROI there; a
retake of another shape is FATAL. What reaches the assembler opens a grid or stripe frame, joins the open one, or is
skipped. -/
def Obligations.HeldRoiIsReleased : Prop :=
  ∀ (f : CmdFields) (record : List Word) (s : State) (v : Nat) (roi held : RoiRecord) (c : Context),
    roiFieldsLegal f = true → validate s.params s.ctxs.length record = .valid v roi → s.ctxs[v]? = some c →
    s.ctrl.getLsbD 2 = true → roi.header.hdrDisabled = false → roi.header.mode = .stripe →
    c.hdrPrev = some held → c.hdrCorrected = false →
      let shape :=
        roi.header.nRows = held.header.nRows ∧ roi.header.winNcols = held.header.winNcols ∧
        roi.header.nrot = held.header.nrot ∧ roi.header.startRow = held.header.startRow ∧
        roi.header.tapAccum = held.header.tapAccum
      (roi.header.prevSaturated = false →
        let o := frameStep s.params s.ctrl s.snrThreshold { c with hdrPrev := some roi } (derotate held)
        exec (.roi f record) s = afterRoi s v o.ctx o.result o.reason) ∧
      (roi.header.prevSaturated = true → shape →
        let o := frameStep s.params s.ctrl s.snrThreshold { c with hdrCorrected := true }
          (derotate ⟨headerOfMerge held.header roi.header, mergePayload s.params.satThresh held roi⟩)
        exec (.roi f record) s = afterRoi s v o.ctx o.result o.reason) ∧
      (roi.header.prevSaturated = true → ¬shape →
        exec (.roi f record) s = afterRoi s v (c.fatal .hdrShape) .fatal .hdrShape)

/-- 40_commands.md R158 steps 5 to 8, grid mode, for a ROI the conditioner passes through (41_roi_conditioner.md R201):
the first ROI opens the frame, a matching one joins it, the last one runs the frame pipeline. What the frame's opening
latches and clears (42_frame_assembler.md R220) and what a ROI must match (R221) are written out; an empty map holds its
reset value everywhere. -/
def Obligations.GridRoiIsAssembled : Prop :=
  ∀ (f : CmdFields) (record : List Word) (s : State) (v : Nat) (roi : RoiRecord) (c : Context),
    let h := roi.header
    roiFieldsLegal f = true → validate s.params s.ctxs.length record = .valid v roi → s.ctxs[v]? = some c →
    h.mode = .grid →
    (h.firstOfFrame = true ∨
      (c.frameOpen = true ∧ c.fd.mode = .grid ∧ h.binning = c.fd.bin ∧
        h.winRow0 = c.fd.winRow0 ∧ h.winNrows = c.fd.winNrows ∧
        h.winCol0 = c.fd.winCol0 ∧ h.winNcols = c.fd.winNcols ∧ h.n0 = c.fd.n0 ∧ h.n1 = c.fd.n1 ∧
        h.freq0.bits = c.fd.f0.bits ∧ h.freq1.bits = c.fd.f1.bits)) →
      let base : Context :=
        if h.firstOfFrame then
          { c with
            fd :=
              { mode := h.mode, bin := h.binning, winRow0 := h.winRow0, winNrows := h.winNrows, winCol0 := h.winCol0
                winNcols := h.winNcols, n0 := h.n0, n1 := h.n1, f0 := h.freq0, f1 := h.freq1, sRow0 := h.startRow
                sNrows := h.nRows }
            active := [], raw0 := [], raw1 := [], vote := [], stripeCount := 0, srow0 := [], srow1 := [], snorm := []
            frameOpen := true }
        else c
      let after := gridAccumulate base (derotate roi)
      exec (.roi f record) s =
        if h.frameCompleted then afterRoi s v (framePipeline s.params s.ctrl s.snrThreshold after) .emit .none
        else afterRoi s v after .ok .none

/-- 40_commands.md R158 steps 5 to 8, stripe mode, for a ROI with HDR not active (41_roi_conditioner.md R200, R201): as in
grid mode, with 42_frame_assembler.md R220 and R221 written out, but a frame that already holds MAX_ROWS stripes ends
FATAL STRIPE_OVERFLOW. -/
def Obligations.StripeRoiIsAssembled : Prop :=
  ∀ (f : CmdFields) (record : List Word) (s : State) (v : Nat) (roi : RoiRecord) (c : Context),
    let h := roi.header
    roiFieldsLegal f = true → validate s.params s.ctxs.length record = .valid v roi → s.ctxs[v]? = some c →
    h.mode = .stripe → (s.ctrl.getLsbD 2 = false ∨ h.hdrDisabled = true) →
    (h.firstOfFrame = true ∨
      (c.frameOpen = true ∧ c.fd.mode = .stripe ∧ h.binning = c.fd.bin ∧
        h.winRow0 = c.fd.winRow0 ∧ h.winNrows = c.fd.winNrows ∧
        h.winCol0 = c.fd.winCol0 ∧ h.winNcols = c.fd.winNcols ∧ h.n0 = c.fd.n0 ∧ h.n1 = c.fd.n1 ∧
        h.freq0.bits = c.fd.f0.bits ∧ h.freq1.bits = c.fd.f1.bits ∧
        h.nRows = c.fd.sNrows)) →
      let base : Context :=
        if h.firstOfFrame then
          { c with
            fd :=
              { mode := h.mode, bin := h.binning, winRow0 := h.winRow0, winNrows := h.winNrows, winCol0 := h.winCol0
                winNcols := h.winNcols, n0 := h.n0, n1 := h.n1, f0 := h.freq0, f1 := h.freq1, sRow0 := h.startRow
                sNrows := h.nRows }
            active := [], raw0 := [], raw1 := [], vote := [], stripeCount := 0, srow0 := [], srow1 := [], snorm := []
            frameOpen := true }
        else c
      (s.params.maxRows.val ≤ base.stripeCount →
        exec (.roi f record) s = afterRoi s v (base.fatal .stripeOverflow) .fatal .stripeOverflow) ∧
      (base.stripeCount < s.params.maxRows.val →
        ∃ after, stripeAccumulate s.params s.ctrl base (derotate roi) = some after ∧
          exec (.roi f record) s =
            if h.frameCompleted then
              afterRoi s v (framePipeline s.params s.ctrl s.snrThreshold after) .emit .none
            else afterRoi s v after .ok .none)

/-- 40_commands.md R158 step 5: a ROI the conditioner passes through (41_roi_conditioner.md R200, R201) with no frame open,
or that does not match the open one; the match of 42_frame_assembler.md R221 is written out. -/
def Obligations.UnmatchedRoiIsNotAssembled : Prop :=
  ∀ (f : CmdFields) (record : List Word) (s : State) (v : Nat) (roi : RoiRecord) (c : Context),
    let h := roi.header
    roiFieldsLegal f = true → validate s.params s.ctxs.length record = .valid v roi → s.ctxs[v]? = some c →
    (s.ctrl.getLsbD 2 = false ∨ h.hdrDisabled = true ∨ h.mode = .grid) → h.firstOfFrame = false →
      (c.frameOpen = false → h.frameCompleted = true →
        exec (.roi f record) s = afterRoi s v c .skip .completeWithoutFirst) ∧
      (c.frameOpen = false → h.frameCompleted = false →
        exec (.roi f record) s = afterRoi s v c .skip .noFirstRoi) ∧
      (c.frameOpen = true →
        ¬(h.mode = c.fd.mode ∧ h.binning = c.fd.bin ∧
          h.winRow0 = c.fd.winRow0 ∧ h.winNrows = c.fd.winNrows ∧
          h.winCol0 = c.fd.winCol0 ∧ h.winNcols = c.fd.winNcols ∧ h.n0 = c.fd.n0 ∧ h.n1 = c.fd.n1 ∧
          h.freq0.bits = c.fd.f0.bits ∧ h.freq1.bits = c.fd.f1.bits ∧
          (h.mode = .stripe → h.nRows = c.fd.sNrows)) →
        exec (.roi f record) s = afterRoi s v (c.fatal .frameMismatch) .fatal .frameMismatch)

/-! ### The stages -/

/-- 41_roi_conditioner.md R204, R205: the merge of a held ROI and its retake, pixel by pixel. `peak` is bounded by every
sample of the pixel and is one of them. -/
def Obligations.RetakeMergesPerPixel : Prop :=
  ∀ (sat : NUM) (ctx : Context) (p roi : RoiRecord),
    p.payload.length = 2 * p.header.rotations * p.header.rows * p.header.cols * 3 → p.header.rotations ≠ 0 →
      (¬(roi.header.nRows = p.header.nRows ∧ roi.header.winNcols = p.header.winNcols ∧
          roi.header.nrot = p.header.nrot ∧ roi.header.startRow = p.header.startRow ∧
          roi.header.tapAccum = p.header.tapAccum) → mergeRetake sat ctx p roi = .badShape ctx) ∧
      (roi.header.nRows = p.header.nRows ∧ roi.header.winNcols = p.header.winNcols ∧
          roi.header.nrot = p.header.nrot ∧ roi.header.startRow = p.header.startRow ∧
          roi.header.tapAccum = p.header.tapAccum →
        ∃ m : RoiRecord, mergeRetake sat ctx p roi = .emitted { ctx with hdrCorrected := true } m ∧
          m.header = { p.header with
            firstOfFrame := p.header.firstOfFrame || roi.header.firstOfFrame
            frameCompleted := p.header.frameCompleted || roi.header.frameCompleted } ∧
          ∀ i c, i < p.header.rows → c < p.header.cols →
            (∀ f j t, f < 2 → j < p.header.rotations → t < 3 → p.raw f j i c t ≤ p.peak i c) ∧
            (∃ f j t, f < 2 ∧ j < p.header.rotations ∧ t < 3 ∧ p.raw f j i c t = p.peak i c) ∧
            ∀ f j t, f < 2 → j < p.header.rotations → t < 3 →
              m.raw f j i c t =
                if (NUM.ofNat (p.peak i c)).lt sat then p.raw f j i c t else roi.raw f j i c t)

/-- 41_roi_conditioner.md R207, with the condition of R200: N non-retake HDR-active ROIs, from an empty delay
line, give N - 1 Emits, of the first N - 1 of them in order, and one Skip, and leave the last one held; a stored ROI and
its retake give one Skip and exactly one Emit, of the merged ROI. -/
def Obligations.HdrDelayLineCounts : Prop :=
  ∀ (p : Params) (ctrl : BitVec 32) (ctx : Context),
    ctx.hdrPrev = none → ctrl.getLsbD 2 = true →
      (∀ rois : List RoiRecord, rois ≠ [] →
        (∀ roi ∈ rois,
          roi.header.hdrDisabled = false ∧ roi.header.mode = .stripe ∧ roi.header.prevSaturated = false) →
          let run := conditionAll p ctrl ctx rois
          run.emitted = rois.dropLast ∧ run.emitted.length = rois.length - 1 ∧ run.stored = 1 ∧ run.badShape = 0 ∧
          run.ctx.hdrPrev = rois.getLast?) ∧
      ∀ a retake : RoiRecord,
        a.header.hdrDisabled = false → a.header.mode = .stripe → retake.header.hdrDisabled = false →
        retake.header.mode = .stripe → retake.header.prevSaturated = true →
        retake.header.nRows = a.header.nRows → retake.header.winNcols = a.header.winNcols →
        retake.header.nrot = a.header.nrot → retake.header.startRow = a.header.startRow →
        retake.header.tapAccum = a.header.tapAccum →
          let run := conditionAll p ctrl ctx [a, retake]
          run.stored = 1 ∧ run.badShape = 0 ∧
          ∃ m, run.emitted = [m] ∧
            mergeRetake p.satThresh { ctx with hdrPrev := some a, hdrCorrected := false } a retake = .emitted run.ctx m

/-- 41_roi_conditioner.md R206: each tap of the assembler's view is the NUM of the sum over the copies `j` of stored tap
`(t + j) mod 3`, or of copy 0's tap when TAP_ACCUM is 0. Every such sum is a whole number below 2^53, so the NUM is
exact (`NumClipFmodAreExact`). -/
def Obligations.DerotationSumsCopiesExactly : Prop :=
  ∀ (roi : RoiRecord) (i c t : Nat),
    roi.header.rotations ≠ 0 → i < roi.header.rows → c < roi.header.cols → t < 3 →
      let copies := if roi.header.tapAccum then roi.header.rotations else 1
      let total := fun f => ((List.range copies).map fun j => roi.raw f j i c ((t + j) % 3)).sum
      ((derotate roi).tap0.taps i c).tap t = NUM.ofNat (total 0) ∧
      ((derotate roi).tap1.taps i c).tap t = NUM.ofNat (total 1) ∧
      total 0 < 2 ^ 53 ∧ total 1 < 2 ^ 53 ∧ (derotate roi).header = roi.header

/-- 42_frame_assembler.md R223, with the proxy of R222 written out: row voting. A pixel of a ROI row keeps the larger combined proxy, a tie keeps the old
one; both frequencies' triples go together; the ROI's rows become active; every other entry, and the rest of the
context, is as before. -/
def Obligations.GridVoteKeepsLargerProxy : Prop :=
  ∀ (ctx : Context) (e : RoiView),
    ctx.memoryCanonical = true →
      let after := gridAccumulate ctx e
      let row := fun i => e.header.startRow.toNat - ctx.fd.winRow0.toNat + i
      after = { ctx with active := after.active, vote := after.vote, raw0 := after.raw0, raw1 := after.raw1 } ∧
      (∀ r, Memory.read false after.active r = true ↔
        Memory.read false ctx.active r = true ∨ ∃ i < e.header.rows, r = row i) ∧
      (∀ i c, i < e.header.rows → c < ctx.fd.winNcols.toNat →
        let k := pixKey (row i) c
        let proxyOf := fun t : Taps =>
          let least := (t.t0.min t.t1).min t.t2
          let s := (((t.t0.add t.t1).add t.t2).sub least).sub (NUM.two.mul least)
          (s.mul s).div (NUM.two.mul (least.max ⟨0x3EF0001000100010⟩))
        let q := (proxyOf (e.tap0.taps i c)).add (proxyOf (e.tap1.taps i c))
        ((Memory.read NUM.negInf ctx.vote k).lt q = true →
          Memory.read NUM.negInf after.vote k = q ∧ Memory.read Taps.zero after.raw0 k = e.tap0.taps i c ∧
          Memory.read Taps.zero after.raw1 k = e.tap1.taps i c) ∧
        ((Memory.read NUM.negInf ctx.vote k).lt q = false →
          Memory.read NUM.negInf after.vote k = Memory.read NUM.negInf ctx.vote k ∧
          Memory.read Taps.zero after.raw0 k = Memory.read Taps.zero ctx.raw0 k ∧
          Memory.read Taps.zero after.raw1 k = Memory.read Taps.zero ctx.raw1 k)) ∧
      ∀ k, (∀ i c, i < e.header.rows → c < ctx.fd.winNcols.toNat → k ≠ pixKey (row i) c) →
        Memory.read NUM.negInf after.vote k = Memory.read NUM.negInf ctx.vote k ∧
        Memory.read Taps.zero after.raw0 k = Memory.read Taps.zero ctx.raw0 k ∧
        Memory.read Taps.zero after.raw1 k = Memory.read Taps.zero ctx.raw1 k

/-- 42_frame_assembler.md R224: the five cases of the row fill, of a stored buffer `raw`. -/
def Obligations.RowFillUsesActiveNeighbours : Prop :=
  ∀ (ctx : Context) (raw : Memory Taps) (r c t : Nat),
    r < ctx.fd.winNrows.toNat → c < ctx.fd.winNcols.toNat → t < 3 →
      let on := fun n => Memory.read false ctx.active n
      let x := fun n => (Memory.read Taps.zero raw (pixKey n c)).tap t
      let up := 1 ≤ r ∧ on (r - 1) = true
      let dn := r + 1 < ctx.fd.winNrows.toNat ∧ on (r + 1) = true
      let filled := ((rowFill ctx raw).taps r c).tap t
      (on r = true → filled = x r) ∧
      (on r = false →
        (up → dn → filled = ((x (r - 1)).add (x (r + 1))).mul ⟨0x3FE0000000000000⟩) ∧
        (up → ¬dn → filled = x (r - 1)) ∧
        (¬up → dn → filled = x (r + 1)) ∧
        (¬up → ¬dn → filled = ⟨0⟩))

/-- 42_frame_assembler.md R225: each binned tap is the column sum of the row sums of its block, and binning by 1 changes
nothing. A NaN and a negative zero, which no assembled frame holds, are left out of the second clause. -/
def Obligations.GridBinningSumsBlocks : Prop :=
  ∀ (fd : FrameDesc) (filled : Grid Taps) (i j t : Nat),
    i < fd.winNrows.toNat / fd.bin.toNat → j < fd.winNcols.toNat / fd.bin.toNat → t < 3 →
      let b := fd.bin.toNat
      ((gridBin fd filled).taps i j).tap t =
        (NUM.sumUp b fun u => NUM.sumUp b fun u' => (filled.taps (i * b + u) (j * b + u')).tap t) ∧
      (b = 1 → ((filled.taps i j).tap t).isNaN = false → (filled.taps i j).tap t ≠ ⟨0x8000000000000000⟩ →
        ((gridBin fd filled).taps i j).tap t = (filled.taps i j).tap t)

/-- 42_frame_assembler.md R230 to R233: a stripe becomes the next output row, its taps and counts the binned weighted
column sums; a full frame takes none; every other row, and the rest of the context, is as before. The weights of the three
windows are written out from R230, over EXP (P19). -/
def Obligations.StripeBecomesNextRow : Prop :=
  ∀ (p : Params) (ctrl : BitVec 32) (ctx : Context) (e : RoiView),
    ctx.memoryCanonical = true → e.header.winNcols = ctx.fd.winNcols →
      (∀ i c,
        let d := (NUM.ofNat i).sub ((NUM.ofNat (e.header.nRows.toNat - 1)).mul ⟨0x3FE0000000000000⟩)
        let sigma := p.gaussSigma
        (ctrl.toNat % 4 = 0 → stripeWeight p ctrl e i c = ⟨0x3FF0000000000000⟩) ∧
        (ctrl.toNat % 4 = 1 →
          stripeWeight p ctrl e i c =
            NUM.exp ((d.mul d).div ((⟨0x4000000000000000⟩ : NUM).mul (sigma.mul sigma))).neg) ∧
        (ctrl.toNat % 4 = 2 →
          stripeWeight p ctrl e i c = (proxy (e.tap0.taps i c)).add (proxy (e.tap1.taps i c)))) ∧
      (p.maxRows.val ≤ ctx.stripeCount → stripeAccumulate p ctrl ctx e = none) ∧
      (ctx.stripeCount < p.maxRows.val →
        ∃ after, stripeAccumulate p ctrl ctx e = some after ∧
          after = { ctx with
            srow0 := after.srow0, srow1 := after.srow1, snorm := after.snorm, stripeCount := ctx.stripeCount + 1 } ∧
          (∀ j t, j < ctx.fd.winNcols.toNat / ctx.fd.bin.toNat → t < 3 →
            let b := ctx.fd.bin.toNat
            let k := pixKey ctx.stripeCount j
            let rows := e.header.nRows.toNat
            let w := stripeWeight p ctrl e
            (Memory.read Taps.zero after.srow0 k).tap t =
              (NUM.sumUp b fun u => NUM.sumUp rows fun i =>
                (w i (j * b + u)).mul ((e.tap0.taps i (j * b + u)).tap t)) ∧
            (Memory.read Taps.zero after.srow1 k).tap t =
              (NUM.sumUp b fun u => NUM.sumUp rows fun i =>
                (w i (j * b + u)).mul ((e.tap1.taps i (j * b + u)).tap t)) ∧
            Memory.read NUM.zero after.snorm k =
              NUM.sumUp b fun u => NUM.sumUp rows fun i => w i (j * b + u)) ∧
          ∀ k, (∀ j < ctx.fd.winNcols.toNat / ctx.fd.bin.toNat, k ≠ pixKey ctx.stripeCount j) →
            Memory.read Taps.zero after.srow0 k = Memory.read Taps.zero ctx.srow0 k ∧
            Memory.read Taps.zero after.srow1 k = Memory.read Taps.zero ctx.srow1 k ∧
            Memory.read NUM.zero after.snorm k = Memory.read NUM.zero ctx.snorm k)

/-- 43_demodulator.md R260: the minimum tap, the highest index among equals, the two taps after it in cyclic order, and
the sector offset. -/
def Obligations.ClassifyPicksHighestMinimum : Prop :=
  ∀ t : Taps,
    t.t0.isNaN = false → t.t1.isNaN = false → t.t2.isNaN = false →
      let k := classify t
      k.m < 3 ∧ k.c = t.tap k.m ∧ k.a = t.tap ((k.m + 1) % 3) ∧ k.b = t.tap ((k.m + 2) % 3) ∧
      (∀ n < 3, (t.tap k.m).le (t.tap n) = true) ∧
      (∀ n < 3, k.m < n → (t.tap k.m).lt (t.tap n) = true) ∧
      (k.m = 0 → k.off = ⟨0x3FD5555555555555⟩) ∧ (k.m = 1 → k.off = ⟨0x3FE5555555555555⟩) ∧
      (k.m = 2 → k.off = ⟨0⟩)

/-- 43_demodulator.md R264, last item: equal taps give phase 0 and accumulate nothing. -/
def Obligations.EqualTapsAccumulateNothing : Prop :=
  ∀ (x n : NUM) (acc : Accum), phaseOf ⟨x, x, x⟩ = ⟨0⟩ ∧ demodPixel acc ⟨x, x, x⟩ n = acc

/-- 43_demodulator.md R263: the order of the two calls does not change the result. For the finite counts and taps of a
run no NaN arises; where an operation does deliver one (a count of 0, an infinite tap), the two sides agree because the
model has one NaN value, which is its choice (log entry 6). -/
def Obligations.DemodulationOrderIrrelevant : Prop :=
  ∀ (t0 t1 : Taps) (n : NUM),
    demodPixel (demodPixel Accum.zero t0 n) t1 n = demodPixel (demodPixel Accum.zero t1 n) t0 n

/-- 44_smoother.md R284: when the smoother is skipped, SP = PH, every difference is 0 and CP = PH. -/
def Obligations.SkippedSmootherChangesNoPhase : Prop :=
  ∀ (kernel : List NUM) (x : Grid Taps) (h w : Nat),
    (h < kernel.length ∨ w < kernel.length) →
      let ph := phaseMap x h w
      let sp := phaseMap (smooth kernel x h w) h w
      sp = ph ∧ correctedMap ph sp h w = ph ∧
      ∀ r c, (ph.num r c).isFinite = true → (ph.num r c).sub (sp.num r c) = ⟨0⟩

/-- 45_unwrapper.md R301 to R303: the cycle index is the Euclidean remainder of `M + N0 * s` modulo N0, in
`[0, N0 - 1]`. -/
def Obligations.CycleIndexIsWrapped : Prop :=
  ∀ (fd : FrameDesc) (sp0 sp1 : NUM),
    1 ≤ fd.n0.toNat →
      let m := (((NUM.ofNat fd.n0.toNat).mul sp1).sub ((NUM.ofNat fd.n1.toNat).mul sp0)).rhaz
      let s : Int := if sp1.lt sp0 then 1 else 0
      cycleIndex fd sp0 sp1 < fd.n0.toNat ∧
      ∃ q : Int, m + fd.n0.toNat * s = q * fd.n0.toNat + cycleIndex fd sp0 sp1

/-- 46_artifact_filters.md R325, first sentence: for an odd window the combined ghost mask is the forward mask, edges
included. -/
def Obligations.OddGhostWindowIsSymmetric : Prop :=
  ∀ (n : Nat) (tol : NUM) (cyc : Grid Nat) (h w : Nat),
    n % 2 = 1 →
      ghostMask n tol cyc h w = ghostScan n tol (Grid.build h w fun r c => NUM.ofNat (Grid.read 0 cyc r c)) h w

/-- 46_artifact_filters.md R330 to R334, R336: a pixel is zeroed exactly when fewer than NEED of its neighbours are close
to it, every value read from the filter's input; so one with fewer than NEED neighbours is always zeroed, and with NEED 0
none is; level 0 is the identity. The neighbours are the other pixels of the frame from row `r - lo` to row `r + hi` and
from column `c - lo` to column `c + hi`, `lo = ⌊Wn / 2⌋` and `hi = Wn - 1 - lo`. -/
def Obligations.NnFilterZeroesLonelyPixels : Prop :=
  ∀ (p : Params) (level : Nat) (rm : Grid NUM) (h w : Nat),
    (level = 0 → nnFilter p level rm h w = rm) ∧
    ∀ r c wn need, level ≠ 0 → p.nnTable[level - 1]? = some (wn, need) → r < h → c < w →
      let lo := wn / 2
      let neighbours := (Finset.range h ×ˢ Finset.range w).filter fun q =>
        q ≠ (r, c) ∧ r ≤ q.1 + lo ∧ q.1 + lo < r + wn ∧ c ≤ q.2 + lo ∧ q.2 + lo < c + wn
      let rp := rm.num r c
      let close := neighbours.filter fun q =>
        (((rm.num q.1 q.2).sub rp).abs).le (p.nnAbsTol.add (p.nnPropTol.mul rp)) = true
      (nnFilter p level rm h w).num r c = (if close.card < need then ⟨0⟩ else rp) ∧
      (neighbours.card < need → (nnFilter p level rm h w).num r c = ⟨0⟩) ∧
      (need = 0 → (nnFilter p level rm h w).num r c = rp)

/-- 47_quantizer.md R350 to R357: every word of the four output maps. R352 is written out with CTRL's bits 7, 8, 9. -/
def Obligations.QuantizerWritesWholeMaps : Prop :=
  ∀ (ctrl : BitVec 32) (thr : NUM) (ctx : Context) (rn : Grid NUM) (acc : Grid Accum) (ghost : Grid Bool)
    (h w : Nat), w ≤ 65535 →
      let after := quantize ctrl thr ctx rn acc ghost h w
      after = { ctx with
        outRange := after.outRange, outSignal := after.outSignal
        outBackground := after.outBackground, outSnr := after.outSnr } ∧
      (∀ r c, r < h → c < w →
        let a := Grid.read Accum.zero acc r c
        let d := (rn.num r c).sub ctx.rangeOffset
        let r1 := if NUM.zero.lt d then d else NUM.zero
        let r2 := r1.fmod (rangeMax ctx.fd)
        let invalid := ctrl.getLsbD 8 = false ∧
          (Memory.read true ctx.pmask (pixKey r c) = false ∨ a.snr.lt (thr.mul NUM.two) = true ∨
            (ctrl.getLsbD 9 = false ∧ ctx.rangeLimit.lt r2 = true) ∨
            (ctrl.getLsbD 7 = true ∧ Grid.read false ghost r c = true))
        (invalid → Memory.read 0 after.outRange (pixKey r c) = clip16 (NUM.zero.mul NUM.n1024).rhaz) ∧
        (¬invalid → Memory.read 0 after.outRange (pixKey r c) = clip16 (r2.mul NUM.n1024).rhaz) ∧
        Memory.read 0 after.outSignal (pixKey r c) = clip16 (a.sig.mul NUM.half).rhaz ∧
        Memory.read 0 after.outBackground (pixKey r c) = clip16 a.bg.rhaz ∧
        Memory.read 0 after.outSnr (pixKey r c) = clip16 (a.snr.mul NUM.half).rhaz) ∧
      ∀ k, (∀ r c, r < h → c < w → k ≠ pixKey r c) →
        Memory.read 0 after.outRange k = 0 ∧ Memory.read 0 after.outSignal k = 0 ∧
        Memory.read 0 after.outBackground k = 0 ∧ Memory.read 0 after.outSnr k = 0

/-- 40_commands.md R160, R161: what completing a frame leaves in the context besides the output maps. -/
def Obligations.FramePipelineEmits : Prop :=
  ∀ (p : Params) (ctrl : BitVec 32) (thr : NUM) (ctx : Context),
    let after := framePipeline p ctrl thr ctx
    let h := (finalRaw ctx).h
    let w := (finalRaw ctx).w
    after = { ctx with
      outRange := after.outRange, outSignal := after.outSignal, outBackground := after.outBackground
      outSnr := after.outSnr, desc := after.desc, hasOutput := true, frameCount := ctx.frameCount + 1
      frameOpen := false } ∧
    (ctx.fd.mode = .grid →
      h = ctx.fd.winNrows.toNat / ctx.fd.bin.toNat ∧ w = ctx.fd.winNcols.toNat / ctx.fd.bin.toNat ∧
      after.desc = ⟨BitVec.ofNat 16 h, BitVec.ofNat 16 w, ctx.fd.winRow0, ctx.fd.winCol0, ctx.fd.bin.setWidth 16,
        ctx.fd.bin.setWidth 16⟩) ∧
    (ctx.fd.mode = .stripe →
      h = ctx.stripeCount ∧ w = ctx.fd.winNcols.toNat / ctx.fd.bin.toNat ∧
      after.desc = ⟨BitVec.ofNat 16 h, BitVec.ofNat 16 w, ctx.fd.sRow0, ctx.fd.winCol0, ctx.fd.sNrows,
        ctx.fd.bin.setWidth 16⟩)

/-- 40_commands.md R160: every word of an emitted frame, from the frame the assembler hands over, each stage written out
from its rules: demodulator (43_demodulator.md R261, R262, over `classify` of R260), smoother and corrector
(44_smoother.md R280 to R283), unwrapper (45_unwrapper.md R301 to R305), ghost mask (46_artifact_filters.md R320 to R324,
as the largest and the smallest cycle index of each window), median (R326 to R328), nearest neighbour (R330 to R333) and
quantizer (47_quantizer.md R350 to R356). The value 1 of a table by binning, and the row (1, 0) of NN_TABLE, outside the
table are the model's choice (log entry 10). -/
def Obligations.EmittedWordsFollowDemodulator : Prop :=
  ∀ (p : Params) (ctrl : BitVec 32) (thr : NUM) (ctx : Context) (r c : Nat),
    let fr := finalRaw ctx
    let fd := ctx.fd
    let h := fr.h
    let w := fr.w
    let b := fd.bin.toNat
    let after := framePipeline p ctrl thr ctx
    let half : NUM := ⟨0x3FE0000000000000⟩
    let one : NUM := ⟨0x3FF0000000000000⟩
    let two : NUM := ⟨0x4000000000000000⟩
    -- demodulator
    let signal := fun t : Taps => ((classify t).a.add (classify t).b).sub (two.mul (classify t).c)
    let phase := fun t : Taps =>
      if NUM.zero.lt (signal t) then
        ((⟨0x3FD5555555555555⟩ : NUM).mul (((classify t).b.sub (classify t).c).div (signal t))).add (classify t).off
      else NUM.zero
    let demod := fun (acc : Accum) (t : Taps) (n : NUM) =>
      let sn := (signal t).div n
      let bn := ((classify t).c.max ⟨0x3EF0001000100010⟩).div n
      if NUM.zero.lt (signal t) then
        (⟨acc.sig.add sn, acc.bg.add bn, acc.snr.add (sn.div (two.mul bn).sqrt)⟩ : Accum)
      else acc
    let acc := demod (demod ⟨⟨0⟩, ⟨0⟩, ⟨0⟩⟩ (fr.x0.taps r c) (fr.nc.num r c)) (fr.x1.taps r c) (fr.nc.num r c)
    -- smoother and phase corrector
    let kernel := if b = 1 then p.kernel0 else if b = 2 then p.kernel1 else p.kernel2
    let reach := (kernel.length - 1) / 2
    let fir := fun (n x : Nat) (value : Nat → NUM) =>
      ((List.range kernel.length).filter fun k => reach ≤ x + k ∧ x + k - reach < n).foldl
        (fun sum k => sum.add ((kernel.getD k NUM.zero).mul (value (x + k - reach)))) NUM.zero
    let smoothed := fun (x : Grid Taps) (i j t : Nat) =>
      if h < kernel.length ∨ w < kernel.length then (x.taps i j).tap t
      else fir h i fun i' => fir w j fun j' => (x.taps i' j').tap t
    let sp := fun (x : Grid Taps) (i j : Nat) => phase ⟨smoothed x i j 0, smoothed x i j 1, smoothed x i j 2⟩
    let cp := fun (x : Grid Taps) (i j : Nat) =>
      let ph := phase (x.taps i j)
      let d := ph.sub (sp x i j)
      if half.lt d then ph.sub one else if d.lt ⟨0xBFE0000000000000⟩ then ph.add one else ph
    -- unwrapper
    let n0 := fd.n0.toNat
    let mask := fun i j : Nat => if (sp fr.x1 i j).lt (sp fr.x0 i j) then 1 else 0
    let cycle := fun i j : Nat =>
      let m := (((NUM.ofNat n0).mul (sp fr.x1 i j)).sub ((NUM.ofNat fd.n1.toNat).mul (sp fr.x0 i j))).rhaz
      ((m + (n0 * mask i j : Nat)) % (n0 : Int)).toNat
    let halfC := (⟨0x41B1DE784A000000⟩ : NUM).mul half
    let range := fun i j : Nat =>
      let range0 := (halfC.mul (one.div fd.f0)).mul ((NUM.ofNat (cycle i j)).add (cp fr.x0 i j))
      let range1 := (halfC.mul (one.div fd.f1)).mul ((NUM.ofNat (cycle i j + mask i j)).add (cp fr.x1 i j))
      let mean := (range1.add range0).mul half
      if NUM.zero.lt mean then mean else NUM.zero
    -- ghost mask
    let wg := p.ghostW.getD (b - 1) 1
    let spread := fun window : Nat → Nat → Prop =>
      ∃ i j i' j', (i < h ∧ j < w ∧ window i j) ∧ (i' < h ∧ j' < w ∧ window i' j') ∧
        (∀ u v, u < h → v < w → window u v → cycle i' j' ≤ cycle u v ∧ cycle u v ≤ cycle i j) ∧
        p.ghostTol.lt ((NUM.ofNat (cycle i j)).sub (NUM.ofNat (cycle i' j'))) = true
    let ghost :=
      spread (fun i j => r ≤ i + wg / 2 ∧ i + wg / 2 < r + wg ∧ c ≤ j + wg / 2 ∧ j + wg / 2 < c + wg) ∧
      spread (fun i j => i ≤ r + wg / 2 ∧ r + wg / 2 < i + wg ∧ j ≤ c + wg / 2 ∧ c + wg / 2 < j + wg)
    -- median filter
    let stripeHalf := (p.medWStripe.getD (b - 1) 1 - 1) / 2
    let gridHalf := (p.medWGrid.getD (b - 1) 1 - 1) / 2
    let filtered := fun i j : Nat =>
      if ctrl.getLsbD 6 = false then range i j
      else if fd.mode = .stripe then
        if stripeHalf ≤ j ∧ j + stripeHalf < w then
          NUM.median ((List.range (2 * stripeHalf + 1)).map fun k => range i (j + k - stripeHalf))
        else range i j
      else if gridHalf ≤ i ∧ i + gridHalf < h ∧ gridHalf ≤ j ∧ j + gridHalf < w then
        NUM.median
          (((List.range (2 * gridHalf + 1)).map fun k => range i (j + k - gridHalf)) ++
            ((List.range (2 * gridHalf + 1)).filter fun k => k ≠ gridHalf).map fun k => range (i + k - gridHalf) j)
      else range i j
    -- nearest-neighbour filter
    let level := ctrl.toNat / 8 % 8
    let wn := (p.nnTable.getD (level - 1) (1, 0)).1
    let need := (p.nnTable.getD (level - 1) (1, 0)).2
    let close := (Finset.range h ×ˢ Finset.range w).filter fun q =>
      (q ≠ (r, c) ∧ r ≤ q.1 + wn / 2 ∧ q.1 + wn / 2 < r + wn ∧ c ≤ q.2 + wn / 2 ∧ q.2 + wn / 2 < c + wn) ∧
      (((filtered q.1 q.2).sub (filtered r c)).abs).le (p.nnAbsTol.add (p.nnPropTol.mul (filtered r c))) = true
    let rn := if level ≠ 0 ∧ close.card < need then NUM.zero else filtered r c
    -- quantizer
    let d := rn.sub ctx.rangeOffset
    let r1 := if NUM.zero.lt d then d else NUM.zero
    let r2 := r1.fmod (halfC.mul ((NUM.ofNat n0).div fd.f0))
    let invalid := ctrl.getLsbD 8 = false ∧
      (Memory.read true ctx.pmask (pixKey r c) = false ∨ acc.snr.lt (thr.mul two) = true ∨
        (ctrl.getLsbD 9 = false ∧ ctx.rangeLimit.lt r2 = true) ∨ (ctrl.getLsbD 7 = true ∧ ghost))
    r < h → c < w →
      (fd.mode = .grid →
        fr.x0.taps r c = (gridBin fd (rowFill ctx ctx.raw0)).taps r c ∧
        fr.x1.taps r c = (gridBin fd (rowFill ctx ctx.raw1)).taps r c ∧ fr.nc.num r c = NUM.ofNat (b * b)) ∧
      (fd.mode = .stripe →
        fr.x0.taps r c = Memory.read Taps.zero ctx.srow0 (pixKey r c) ∧
        fr.x1.taps r c = Memory.read Taps.zero ctx.srow1 (pixKey r c) ∧
        fr.nc.num r c = Memory.read NUM.zero ctx.snorm (pixKey r c)) ∧
      (1 ≤ n0 → invalid → Memory.read 0 after.outRange (pixKey r c) = 0) ∧
      (1 ≤ n0 → ¬invalid →
        Memory.read 0 after.outRange (pixKey r c) = clip16 (r2.mul ⟨0x4090000000000000⟩).rhaz) ∧
      Memory.read 0 after.outSignal (pixKey r c) = clip16 (acc.sig.mul half).rhaz ∧
      Memory.read 0 after.outBackground (pixKey r c) = clip16 acc.bg.rhaz ∧
      Memory.read 0 after.outSnr (pixKey r c) = clip16 (acc.snr.mul half).rhaz

/-! ### Arithmetic -/

/-- 00_scope.md R16: `rhaz` maps a finite NUM to the integer nearest to its exact value, and an exact half to the one of
larger magnitude. -/
def Obligations.RhazRoundsHalfAway : Prop :=
  ∀ x : NUM, x.isFinite = true →
    |(x.rhaz : ℚ) - x.toRat| ≤ 1 / 2 ∧ (|(x.rhaz : ℚ) - x.toRat| = 1 / 2 → |x.toRat| < |(x.rhaz : ℚ)|)

/-- 00_scope.md R15, R17: `num(n)` is exact for `n ≤ 2^53`, `clip16` clips, and `fmod` is the exact remainder, with no
rounding. -/
def Obligations.NumClipFmodAreExact : Prop :=
  (∀ n : Nat, n ≤ 2 ^ 53 → (NUM.ofNat n).isFinite = true ∧ (NUM.ofNat n).toRat = n) ∧
  (∀ n : Int, ((clip16 n).toNat : Int) = min (max n 0) 65535) ∧
  ∀ x y : NUM, x.isFinite = true → y.isFinite = true → NUM.zero.le x = true → NUM.zero.lt y = true →
    (x.fmod y).isFinite = true ∧ (x.fmod y).toRat = x.toRat - y.toRat * (⌊x.toRat / y.toRat⌋ : ℚ)

/-- 00_scope.md R14: sum, difference and product of finite values are rounded once, to nearest, ties to even. -/
def Obligations.AddSubMulCorrectlyRounded : Prop :=
  ∀ x y : NUM, x.isFinite = true → y.isFinite = true →
    (NUM.InRange (x.toRat + y.toRat) → (x.add y).IsNearest (x.toRat + y.toRat)) ∧
    (NUM.InRange (x.toRat - y.toRat) → (x.sub y).IsNearest (x.toRat - y.toRat)) ∧
    (NUM.InRange (x.toRat * y.toRat) → (x.mul y).IsNearest (x.toRat * y.toRat))

/-- 00_scope.md R14: quotient and square root are rounded once, to nearest, ties to even. -/
def Obligations.DivSqrtCorrectlyRounded : Prop :=
  ∀ x y : NUM, x.isFinite = true → y.isFinite = true →
    (y.toRat ≠ 0 → NUM.InRange (x.toRat / y.toRat) → (x.div y).IsNearest (x.toRat / y.toRat)) ∧
    (0 ≤ x.toRat → x.sqrt.IsNearest (Real.sqrt x.toRat))

/-- 00_scope.md R18: the median of an odd count is the middle element of the multiset sorted to rise. -/
def Obligations.MedianIsMiddleOfSorted : Prop :=
  ∀ xs : List NUM, xs.length % 2 = 1 → (∀ x ∈ xs, x.isNaN = false) →
    ∃ ys : List NUM, ys.Perm xs ∧ ys.Pairwise (fun a b => a.le b = true) ∧
      ys[(xs.length - 1) / 2]? = some (NUM.median xs)

/-! ### What every command keeps -/

/-- 10_state.md R53 with R38: a command other than RESET leaves every virtual sensor it does not address as it was, and
no command changes the construction parameters or the number of virtual sensors. That no command, RESET included, changes
the words not yet read is the model's choice (log entry 3). -/
def Obligations.OtherSensorsUntouched : Prop :=
  ∀ (i : Instr) (s t : State), exec i s = .next t →
    t.params = s.params ∧ t.ctxs.length = s.ctxs.length ∧ t.stream = s.stream ∧
    ∀ w, addressed i ≠ some w → (∀ f, i ≠ .reset f) → t.ctxs[w]? = s.ctxs[w]?

/-- 20_memory.md R88: commands for different virtual sensors commute. -/
def Obligations.CommandsForDifferentSensorsCommute : Prop :=
  ∀ (i j : Instr) (v w : Nat) (s t1 t2 u1 u2 : State),
    addressed i = some v → addressed j = some w → v ≠ w →
    exec i s = .next t1 → exec j t1 = .next t2 → exec j s = .next u1 → exec i u1 = .next u2 →
      State.sameBlock t2 u2

/-- 10_state.md R50: `fatal_sticky` is set by every FATAL on `v` and cleared only by VSRESET of `v` and RESET. -/
def Obligations.FatalStickyIsSticky : Prop :=
  ∀ (i : Instr) (s t : State) (v : Nat) (c c' : Context),
    exec i s = .next t → s.ctxs[v]? = some c → t.ctxs[v]? = some c' →
      (c.fatalSticky = true → (∀ f, i ≠ .reset f) → (∀ f, i = .vsreset f → vsOf f ≠ v) → c'.fatalSticky = true) ∧
      (c.fatalSticky = false → c'.fatalSticky = true →
        ∃ r, t.resp = some r ∧ r.result = .fatal ∧ addressed i = some v) ∧
      (∀ f record r, i = .roi f record → 12 ≤ record.length → addressed i = some v → t.resp = some r →
        r.result = .fatal → c'.fatalSticky = true)

/-- 70_reset_and_hazards.md R436, 10_state.md R37, R48: apart from RESET, only a ROI command that answers EMIT for `v`
changes its output maps, descriptor, HAS_OUTPUT or FRAME_COUNT, and it counts one frame. -/
def Obligations.OutputsChangeOnlyOnEmit : Prop :=
  ∀ (i : Instr) (s t : State) (v : Nat) (c c' : Context),
    exec i s = .next t → s.ctxs[v]? = some c → t.ctxs[v]? = some c' → (∀ f, i ≠ .reset f) →
      (c'.outRange = c.outRange ∧ c'.outSignal = c.outSignal ∧ c'.outBackground = c.outBackground ∧
        c'.outSnr = c.outSnr ∧ c'.desc = c.desc ∧ c'.hasOutput = c.hasOutput ∧ c'.frameCount = c.frameCount) ∨
      (t.resp = some ⟨.emit, .none, 0⟩ ∧ addressed i = some v ∧ c'.hasOutput = true ∧
        c'.frameCount = c.frameCount + 1 ∧ c'.frameOpen = false)

/-- 20_memory.md R85: reading a register, an output word, a descriptor field or a mask bit changes nothing but the
response. -/
def Obligations.ReadsHaveNoSideEffect : Prop :=
  ∀ (f : CmdFields) (s : State) (i : Instr),
    i = .rdreg f ∨ i = .rdout f ∨ i = .rddesc f ∨ i = .rdmask f →
      ∃ r, exec i s = .next { s with resp := some r } ∧ ∀ q, exec i { s with resp := q } = .next { s with resp := some r }

/-- 20_memory.md R85: WRREG, WRMASK, VSRESET and RESET issued twice in a row leave the state they leave once. -/
def Obligations.WritesAreIdempotent : Prop :=
  ∀ (f : CmdFields) (s t : State) (i : Instr),
    s.memoryCanonical = true → i = .wrreg f ∨ i = .wrmask f ∨ i = .vsreset f ∨ i = .reset f →
      exec i s = .next t → exec i t = .next t

/-- 70_reset_and_hazards.md R438, 40_commands.md R153, R154: a read right after an accepted write sees the written
value. -/
def Obligations.RegisterReadSeesWrite : Prop :=
  ∀ (f : CmdFields) (s t : State),
    exec (.wrreg f) s = .next t → t.resp = some ⟨.ok, .none, 0⟩ →
      exec (.rdreg { f with arg := 0 }) t = answers t f.arg

/-- The model's canonical form (log entry 7): every stored map stays canonical through every step, from every state in
which it is. -/
def Obligations.StepKeepsMemoryCanonical : Prop :=
  ∀ s t : State, s.memoryCanonical = true → step s = .next t → t.memoryCanonical = true

/-- 10_state.md R32 to R50, 30_encoding.md R106 to R108: `State.inv` holds after every step from every state in which
it holds. -/
def Obligations.StepKeepsInvariant : Prop :=
  ∀ s t : State, s.inv = true → step s = .next t → t.inv = true

/-- 10_state.md R54: the invariant holds after reset, whatever the device. -/
def Obligations.ResetSatisfiesInvariant : Prop :=
  (∀ (p : Params) (n : Nat), (State.powerOn p n).inv = true) ∧ State.reset.inv = true
end

