-- ==== Sys2Proof/Laws/Memory.lean ====
section
/-! SUPPORT. The laws of the stored maps and of the transient grids: what a read sees after a write, and that every
operation keeps the canonical form. -/

namespace Sys2Proof

/-- Two pixels with columns below 2^32 have the same index only when they are the same pixel. -/
theorem pixKey_inj {r c r' c' : Nat} (hc : c < 2 ^ 32) (hc' : c' < 2 ^ 32) (h : pixKey r c = pixKey r' c') :
    r = r' ∧ c = c' := by
  unfold pixKey at h
  omega

/-- The row half of an index. -/
theorem pixKey_div {r c : Nat} (hc : c < 2 ^ 32) : pixKey r c / 2 ^ 32 = r := by
  unfold pixKey
  omega

/-- The column half of an index. -/
theorem pixKey_mod {r c : Nat} (hc : c < 2 ^ 32) : pixKey r c % 2 ^ 32 = c := by
  unfold pixKey
  omega

section
variable {α : Type} [DecidableEq α] {d : α}

/-- A map canonical from `hi` on is canonical from any smaller index on. -/
theorem Memory.wfFrom_mono {lo hi : Nat} {m : Memory α} (h : lo ≤ hi) (hm : Memory.wfFrom d hi m = true) :
    Memory.wfFrom d lo m = true := by
  cases m with
  | nil => rfl
  | cons e rest =>
    simp only [Memory.wfFrom, Bool.and_eq_true, decide_eq_true_eq] at hm ⊢
    exact ⟨⟨h.trans hm.1.1, hm.1.2⟩, hm.2⟩

/-- An index below the first one of a canonical map is not listed. -/
theorem Memory.read_of_wfFrom {lo k : Nat} {m : Memory α} (hm : Memory.wfFrom d lo m = true) (hk : k < lo) :
    Memory.read d m k = d := by
  induction m generalizing lo with
  | nil => rfl
  | cons e rest ih =>
    obtain ⟨k', v⟩ := e
    simp only [Memory.wfFrom, Bool.and_eq_true, decide_eq_true_eq] at hm
    have : k' ≠ k := by omega
    simp only [Memory.read, this, if_false]
    exact ih hm.2 (by omega)

/-- A write keeps the canonical form. -/
theorem Memory.wfFrom_write {lo k : Nat} {m : Memory α} (v : α) (hm : Memory.wfFrom d lo m = true) (hk : lo ≤ k) :
    Memory.wfFrom d lo (Memory.write d m k v) = true := by
  induction m generalizing lo with
  | nil => by_cases hv : v = d <;> simp [Memory.write, Memory.wfFrom, hv, hk]
  | cons e rest ih =>
    obtain ⟨k', v'⟩ := e
    have hm' := hm
    simp only [Memory.wfFrom, Bool.and_eq_true, decide_eq_true_eq] at hm
    obtain ⟨⟨h1, h2⟩, h3⟩ := hm
    by_cases hlt : k < k'
    · by_cases hv : v = d
      · simp only [Memory.write, hlt, hv, if_true]
        exact hm'
      · simp only [Memory.write, hlt, hv, if_true, if_false, Memory.wfFrom, Bool.and_eq_true, decide_eq_true_eq]
        exact ⟨⟨hk, hv⟩, ⟨⟨by omega, h2⟩, h3⟩⟩
    · by_cases heq : k = k'
      · subst heq
        by_cases hv : v = d
        · simp only [Memory.write, lt_irrefl, if_false, if_true, hv]
          exact Memory.wfFrom_mono (by omega) h3
        · simp only [Memory.write, lt_irrefl, if_false, if_true, hv, Memory.wfFrom, Bool.and_eq_true,
            decide_eq_true_eq]
          exact ⟨⟨hk, hv⟩, h3⟩
      · simp only [Memory.write, hlt, heq, if_false, Memory.wfFrom, Bool.and_eq_true, decide_eq_true_eq]
        exact ⟨⟨h1, h2⟩, ih h3 (by omega)⟩

/-- A write keeps the canonical form of a whole map. -/
theorem Memory.wf_write {m : Memory α} (k : Nat) (v : α) (hm : Memory.wf d m = true) :
    Memory.wf d (Memory.write d m k v) = true :=
  Memory.wfFrom_write v hm (Nat.zero_le k)

/-- A read of the written entry sees the written value. -/
theorem Memory.read_write_same {lo k : Nat} {m : Memory α} (v : α) (hm : Memory.wfFrom d lo m = true) :
    Memory.read d (Memory.write d m k v) k = v := by
  induction m generalizing lo with
  | nil => by_cases hv : v = d <;> simp [Memory.write, Memory.read, hv]
  | cons e rest ih =>
    obtain ⟨k', v'⟩ := e
    have hm' := hm
    simp only [Memory.wfFrom, Bool.and_eq_true, decide_eq_true_eq] at hm
    obtain ⟨⟨h1, h2⟩, h3⟩ := hm
    by_cases hlt : k < k'
    · by_cases hv : v = d
      · have hne : k' ≠ k := by omega
        simp only [Memory.write, hlt, hv, if_true, Memory.read, hne, if_false]
        exact Memory.read_of_wfFrom h3 (by omega)
      · simp [Memory.write, hlt, hv, Memory.read]
    · by_cases heq : k = k'
      · subst heq
        by_cases hv : v = d
        · simp only [Memory.write, lt_irrefl, if_false, if_true, hv]
          exact Memory.read_of_wfFrom h3 (by omega)
        · simp [Memory.write, hv, Memory.read]
      · simp only [Memory.write, hlt, heq, if_false, Memory.read, Ne.symm heq]
        exact ih h3

/-- A write leaves every other entry alone. -/
theorem Memory.read_write_other {m : Memory α} {j k : Nat} (v : α) (hjk : j ≠ k) :
    Memory.read d (Memory.write d m k v) j = Memory.read d m j := by
  induction m with
  | nil => by_cases hv : v = d <;> simp [Memory.write, Memory.read, hv, Ne.symm hjk]
  | cons e rest ih =>
    obtain ⟨k', v'⟩ := e
    by_cases hlt : k < k'
    · by_cases hv : v = d <;> simp [Memory.write, Memory.read, hlt, hv, Ne.symm hjk]
    · by_cases heq : k = k'
      · subst heq
        by_cases hv : v = d <;> simp [Memory.write, Memory.read, hv, Ne.symm hjk]
      · simp only [Memory.write, hlt, heq, if_false, Memory.read, ih]

/-- Writing one entry twice leaves what writing it once leaves. -/
theorem Memory.write_write_same {lo k : Nat} {m : Memory α} (v : α) (hm : Memory.wfFrom d lo m = true) :
    Memory.write d (Memory.write d m k v) k v = Memory.write d m k v := by
  induction m generalizing lo with
  | nil => by_cases hv : v = d <;> simp [Memory.write, hv]
  | cons e rest ih =>
    obtain ⟨k', v'⟩ := e
    have hm' := hm
    simp only [Memory.wfFrom, Bool.and_eq_true, decide_eq_true_eq] at hm
    obtain ⟨⟨h1, h2⟩, h3⟩ := hm
    by_cases hlt : k < k'
    · by_cases hv : v = d <;> simp [Memory.write, hlt, hv]
    · by_cases heq : k = k'
      · subst heq
        by_cases hv : v = d
        · subst hv
          have : Memory.write v rest k v = rest := by
            cases rest with
            | nil => simp [Memory.write]
            | cons e' rest' =>
              simp only [Memory.wfFrom, Bool.and_eq_true, decide_eq_true_eq] at h3
              have : k < e'.1 := by omega
              simp [Memory.write, this]
          simp [Memory.write, this]
        · simp [Memory.write, hv]
      · simp only [Memory.write, hlt, heq, if_false, ih h3]

/-- Every operation that writes a row keeps the canonical form. -/
theorem Memory.wf_writeRow {m : Memory α} (r w : Nat) (f : Nat → α) (hm : Memory.wf d m = true) :
    Memory.wf d (Memory.writeRow d m r w f) = true := by
  unfold Memory.writeRow
  generalize List.range w = l
  induction l generalizing m with
  | nil => exact hm
  | cons c l ih => exact ih (Memory.wf_write _ _ hm)

/-- A map built pixel by pixel is canonical. -/
theorem Memory.wf_ofPixels (h w : Nat) (f : Nat → Nat → α) : Memory.wf d (Memory.ofPixels d h w f) = true := by
  unfold Memory.ofPixels
  have : ∀ (l : List Nat) (m : Memory α), Memory.wf d m = true →
      Memory.wf d (l.foldl (fun acc r => Memory.writeRow d acc r w (f r)) m) = true := by
    intro l
    induction l with
    | nil => exact fun m hm => hm
    | cons r l ih => exact fun m hm => ih _ (Memory.wf_writeRow r w (f r) hm)
  exact this _ _ rfl

/-- Writing a row: one of its entries reads the value written, when the row has less than 2^32 entries. -/
theorem Memory.read_writeRow_same {m : Memory α} {r w c : Nat} (f : Nat → α) (hm : Memory.wf d m = true) (hc : c < w) :
    Memory.read d (Memory.writeRow d m r w f) (pixKey r c) = f c := by
  induction w with
  | zero => omega
  | succ w ih =>
    unfold Memory.writeRow at ih ⊢
    simp only [List.range_succ, List.foldl_append, List.foldl_cons, List.foldl_nil]
    by_cases h : c = w
    · subst h
      exact Memory.read_write_same (lo := 0) _ (Memory.wf_writeRow r c f hm)
    · rw [Memory.read_write_other _ (by unfold pixKey; omega)]
      exact ih (by omega)

/-- Writing a row leaves every index outside it alone. -/
theorem Memory.read_writeRow_other {m : Memory α} {r w k : Nat} (f : Nat → α) (hk : ∀ c < w, k ≠ pixKey r c) :
    Memory.read d (Memory.writeRow d m r w f) k = Memory.read d m k := by
  induction w with
  | zero => rfl
  | succ w ih =>
    unfold Memory.writeRow at ih ⊢
    simp only [List.range_succ, List.foldl_append, List.foldl_cons, List.foldl_nil]
    rw [Memory.read_write_other _ (hk w (by omega))]
    exact ih fun c hc => hk c (by omega)

/-- A map built pixel by pixel reads, at a pixel inside it, what it was built from. -/
theorem Memory.read_ofPixels_inside {h w r c : Nat} (f : Nat → Nat → α) (hw : w ≤ 2 ^ 32) (hr : r < h) (hc : c < w) :
    Memory.read d (Memory.ofPixels d h w f) (pixKey r c) = f r c := by
  induction h with
  | zero => omega
  | succ h ih =>
    have hwf := Memory.wf_ofPixels (d := d) h w f
    unfold Memory.ofPixels at ih hwf ⊢
    simp only [List.range_succ, List.foldl_append, List.foldl_cons, List.foldl_nil]
    by_cases e : r = h
    · subst e
      exact Memory.read_writeRow_same _ hwf hc
    · rw [Memory.read_writeRow_other]
      · exact ih (by omega)
      · intro c' hc' heq
        exact e (pixKey_inj (by omega) (by omega) heq).1

/-- A map built pixel by pixel reads its default at every other index. -/
theorem Memory.read_ofPixels_outside {h w k : Nat} (f : Nat → Nat → α)
    (hk : ∀ r c, r < h → c < w → k ≠ pixKey r c) : Memory.read d (Memory.ofPixels d h w f) k = d := by
  induction h with
  | zero => rfl
  | succ h ih =>
    unfold Memory.ofPixels at ih ⊢
    simp only [List.range_succ, List.foldl_append, List.foldl_cons, List.foldl_nil]
    rw [Memory.read_writeRow_other _ fun c hc => hk h c (by omega) hc]
    exact ih fun r c hr hc => hk r c (by omega) hc

end

/-- Every map of a context at reset is canonical. -/
theorem Machine.Context.reset_memoryCanonical : Machine.Context.reset.memoryCanonical = true := by decide

/-- Every map of the state after power-on is canonical, whatever the device. -/
theorem Machine.State.powerOn_memoryCanonical (p : Params) (n : Nat) :
    (Machine.State.powerOn p n).memoryCanonical = true := by
  simp [Machine.State.memoryCanonical, Machine.State.powerOn, Machine.Context.reset_memoryCanonical]

/-- `State.reset` has canonical maps. -/
theorem Machine.State.reset_memoryCanonical : Machine.State.reset.memoryCanonical = true :=
  Machine.State.powerOn_memoryCanonical _ _

/-- An entry of a built grid, inside it. -/
theorem Grid.read_build {α : Type} (d : α) {h w r c : Nat} (f : Nat → Nat → α) (hr : r < h) (hc : c < w) :
    Grid.read d (Grid.build h w f) r c = f r c := by
  simp [Grid.read, Grid.build, List.getD, hr, hc]

/-- An entry of a built grid, outside it. -/
theorem Grid.read_build_outside {α : Type} (d : α) {h w r c : Nat} (f : Nat → Nat → α) (hrc : ¬(r < h ∧ c < w)) :
    Grid.read d (Grid.build h w f) r c = d := by
  by_cases hr : r < h
  · have hc : w ≤ c := by omega
    simp [Grid.read, Grid.build, List.getD, hr, hc]
  · have hr' : h ≤ r := by omega
    simp [Grid.read, Grid.build, List.getD, hr']

/-- An entry of a built NUM map, inside it. -/
theorem Grid.num_build {h w r c : Nat} (f : Nat → Nat → NUM) (hr : r < h) (hc : c < w) :
    (Grid.build h w f).num r c = f r c :=
  Grid.read_build _ f hr hc

/-- An entry of a built tap map, inside it. -/
theorem Grid.taps_build {h w r c : Nat} (f : Nat → Nat → Taps) (hr : r < h) (hc : c < w) :
    (Grid.build h w f).taps r c = f r c :=
  Grid.read_build _ f hr hc

/-- A tap of a built triple. -/
theorem Taps.tap_build (f : Nat → NUM) {t : Nat} (ht : t < 3) : (Taps.build f).tap t = f t := by
  interval_cases t <;> rfl

/-- Two triples with equal taps are equal. -/
theorem Taps.ext_tap {x y : Taps} (h : ∀ t < 3, x.tap t = y.tap t) : x = y := by
  cases x
  cases y
  have h0 := h 0 (by omega)
  have h1 := h 1 (by omega)
  have h2 := h 2 (by omega)
  simp only [Taps.tap] at h0 h1 h2
  simp [h0, h1, h2]

end Sys2Proof
end

