-- ==== Sys2Proof/Laws/Num.lean ====
section
/-! SUPPORT. The laws of NUM that every arithmetic proof starts from: comparisons are those of `NUM.order`, and the three
kinds of bit pattern. -/

namespace Sys2Proof

theorem NUM.lt_iff {x y : NUM} :
    x.lt y = true ↔ x.isNaN = false ∧ y.isNaN = false ∧ x.order < y.order := by
  simp [NUM.lt, and_assoc]

theorem NUM.le_iff {x y : NUM} :
    x.le y = true ↔ x.isNaN = false ∧ y.isNaN = false ∧ x.order ≤ y.order := by
  simp [NUM.le, and_assoc]

theorem NUM.eqv_iff {x y : NUM} :
    x.eqv y = true ↔ x.isNaN = false ∧ y.isNaN = false ∧ x.order = y.order := by
  simp only [NUM.eqv, Bool.and_eq_true, NUM.le_iff]
  constructor
  · rintro ⟨⟨hx, hy, h⟩, -, -, h'⟩
    exact ⟨hx, hy, le_antisymm h h'⟩
  · rintro ⟨hx, hy, h⟩
    exact ⟨⟨hx, hy, h.le⟩, hy, hx, h.ge⟩

/-- Of two values that are not NaN, one is at most the other. -/
theorem NUM.le_total {x y : NUM} (hx : x.isNaN = false) (hy : y.isNaN = false) :
    x.le y = true ∨ y.le x = true := by
  rcases Int.le_total x.order y.order with h | h
  · exact .inl (NUM.le_iff.mpr ⟨hx, hy, h⟩)
  · exact .inr (NUM.le_iff.mpr ⟨hy, hx, h⟩)

theorem NUM.le_trans {x y z : NUM} (h : x.le y = true) (h' : y.le z = true) : x.le z = true := by
  rw [NUM.le_iff] at *
  exact ⟨h.1, h'.2.1, h.2.2.trans h'.2.2⟩

/-- For values that are not NaN, not below is at least. -/
theorem NUM.not_lt {x y : NUM} (hx : x.isNaN = false) (hy : y.isNaN = false) :
    x.lt y = false ↔ y.le x = true := by
  rw [Bool.eq_false_iff, Ne, NUM.lt_iff, NUM.le_iff]
  simp [hx, hy]

theorem NUM.isNaN_of_isFinite {x : NUM} (h : x.isFinite = true) : x.isNaN = false := by
  simp only [NUM.isFinite, NUM.isNaN, decide_eq_true_eq, decide_eq_false_iff_not] at *
  omega

/-- A finite pattern unpacks to a finite value with a magnitude below 2^53 and a last place of at least 2^-1074. -/
theorem NUM.unpack_of_isFinite {x : NUM} (h : x.isFinite = true) :
    ∃ neg m e, x.unpack = .fin neg m e ∧ m < 2 ^ 53 ∧ -1074 ≤ e ∧ e ≤ 971 ∧ (e = -1074 ∨ 2 ^ 52 ≤ m) := by
  simp only [NUM.isFinite, decide_eq_true_eq] at h
  have hx : x.bits.toNat < 2 ^ 64 := x.bits.isLt
  unfold NUM.unpack
  simp only []
  split
  · omega
  · split
    · exact ⟨_, _, _, rfl, by omega, by omega, by omega, .inl rfl⟩
    · exact ⟨_, _, _, rfl, by omega, by omega, by omega, .inr (by omega)⟩

/-- A pattern that unpacks to a finite value is finite. -/
theorem NUM.isFinite_of_unpack {x : NUM} {neg : Bool} {m : Nat} {e : Int} (h : x.unpack = .fin neg m e) :
    x.isFinite = true := by
  have hx : x.bits.toNat < 2 ^ 64 := x.bits.isLt
  unfold NUM.unpack at h
  simp only [] at h
  split at h
  · split at h <;> cases h
  · simp only [NUM.isFinite, decide_eq_true_eq]
    omega

/-- EXP is finite and at least 0 (42_frame_assembler.md R230), and at most 2.0 for `x ≤ 0` (93_implementation_defined.md,
section 2). -/
theorem NUM.exp_bounds (x : NUM) :
    x.exp.isFinite = true ∧ NUM.zero.le x.exp = true ∧ (x.le NUM.zero = true → x.exp.le NUM.two = true) := by
  have pattern : ∀ n : Nat, n < 0x7FF0000000000000 →
      NUM.isFinite ⟨BitVec.ofNat 64 n⟩ = true ∧ NUM.order ⟨BitVec.ofNat 64 n⟩ = n := by
    intro n hn
    have h1 : n % 2 ^ 64 = n := by omega
    have h2 : n % 2 ^ 63 = n := by omega
    have h3 : n < 2 ^ 63 := by omega
    simp only [NUM.isFinite, NUM.order, BitVec.toNat_ofNat, h1, h2, h3, if_true]
    exact ⟨by simpa using hn, trivial⟩
  have zero : NUM.zero.isNaN = false ∧ NUM.zero.order = 0 := by decide
  have two : NUM.two.isNaN = false ∧ NUM.two.order = 0x4000000000000000 := by decide
  unfold NUM.exp
  split
  · have hb := (Config.expNonposBits x).isLt
    obtain ⟨hf, ho⟩ := pattern (Config.expNonposBits x).val (by omega)
    refine ⟨hf, NUM.le_iff.mpr ⟨zero.1, NUM.isNaN_of_isFinite hf, ?_⟩, fun _ =>
      NUM.le_iff.mpr ⟨NUM.isNaN_of_isFinite hf, two.1, ?_⟩⟩ <;> omega
  · have hb := (Config.expBits x).isLt
    obtain ⟨hf, ho⟩ := pattern (Config.expBits x).val (by omega)
    refine ⟨hf, NUM.le_iff.mpr ⟨zero.1, NUM.isNaN_of_isFinite hf, ?_⟩, fun h => ?_⟩
    · omega
    · exact absurd h ‹_›

/-- The mantissa of a natural number below 2^53 scaled to 53 bits. -/
theorem scaled_mantissa {n : Nat} (hn : n ≠ 0) (h : n < 2 ^ 53) :
    2 ^ 52 ≤ n * 2 ^ (52 - n.log2) ∧ n * 2 ^ (52 - n.log2) < 2 ^ 53 := by
  have hl : n.log2 < 53 := (Nat.log2_lt hn).mpr h
  constructor
  · calc 2 ^ 52 = 2 ^ n.log2 * 2 ^ (52 - n.log2) := by rw [← pow_add]; congr 1; omega
      _ ≤ _ := Nat.mul_le_mul_right _ (Nat.log2_self_le hn)
  · calc n * 2 ^ (52 - n.log2) < 2 ^ (n.log2 + 1) * 2 ^ (52 - n.log2) :=
          Nat.mul_lt_mul_of_pos_right Nat.lt_log2_self (by positivity)
      _ = 2 ^ 53 := by rw [← pow_add]; congr 1; omega

/-- The bit pattern of `num(n)` for `0 < n < 2^53`: exponent field and mantissa (00_scope.md R15). -/
theorem NUM.ofNat_bits {n : Nat} (hn : n ≠ 0) (h : n < 2 ^ 53) :
    (NUM.ofNat n).bits.toNat = (n.log2 + 1022) * 2 ^ 52 + n * 2 ^ (52 - n.log2) := by
  have hl : n.log2 < 53 := (Nat.log2_lt hn).mpr h
  obtain ⟨-, hm⟩ := scaled_mantissa hn h
  have hq : Max.max ((n.log2 : Int) + 0 - 52) (-1074) = (n.log2 : Int) - 52 := by omega
  have e1 : ((n.log2 : Int) - 52 + 1074).toNat = n.log2 + 1022 := by omega
  have e2 : ((0 : Int) - ((n.log2 : Int) - 52)).toNat = 52 - n.log2 := by omega
  have e3 : (n.log2 : Int) - 52 ≤ 0 := by omega
  simp only [NUM.ofNat, NUM.round, hn, if_false, hq, e1, e2, e3, if_true]
  rw [if_neg (by omega)]
  simp only [NUM.signed, Bool.false_eq_true, if_false, BitVec.toNat_ofNat]
  omega

/-- `num` is strictly monotone on the bit patterns, below that of +infinity. -/
theorem NUM.ofNat_bits_lt {a b : Nat} (hb : b < 2 ^ 53) (h : a < b) :
    (NUM.ofNat a).bits.toNat < (NUM.ofNat b).bits.toNat ∧ (NUM.ofNat b).bits.toNat < 0x7FF0000000000000 := by
  have hb0 : b ≠ 0 := by omega
  have hbl : b.log2 < 53 := (Nat.log2_lt hb0).mpr hb
  have hbm := NUM.ofNat_bits hb0 hb
  obtain ⟨hb1, hb2⟩ := scaled_mantissa hb0 hb
  refine ⟨?_, by omega⟩
  by_cases ha : a = 0
  · subst ha
    have : (NUM.ofNat 0).bits.toNat = 0 := by decide
    omega
  have ham := NUM.ofNat_bits ha (by omega)
  obtain ⟨ha1, ha2⟩ := scaled_mantissa ha (by omega)
  rcases Nat.lt_trichotomy a.log2 b.log2 with hlt | heq | hgt
  · omega
  · rw [ham, hbm, heq]
    have : a * 2 ^ (52 - b.log2) < b * 2 ^ (52 - b.log2) := Nat.mul_lt_mul_of_pos_right h (by positivity)
    omega
  · have h1 : 2 ^ (b.log2 + 1) ≤ 2 ^ a.log2 := Nat.pow_le_pow_right (by omega) hgt
    have h2 := Nat.log2_self_le ha
    have h3 : b < 2 ^ (b.log2 + 1) := Nat.lt_log2_self
    omega

/-- A pattern below that of +infinity is no NaN and is ordered by its bits. -/
theorem NUM.order_of_bits_lt {x : NUM} (hx : x.bits.toNat < 0x7FF0000000000000) :
    x.isNaN = false ∧ x.order = x.bits.toNat := by
  simp only [NUM.isNaN, NUM.order, decide_eq_false_iff_not]
  rw [if_pos (by omega)]
  omega

/-- Converted integers compare as integers (00_scope.md R15). -/
theorem NUM.lt_ofNat {a b : Nat} (ha : a < 2 ^ 53) (hb : b < 2 ^ 53) :
    (NUM.ofNat a).lt (NUM.ofNat b) = decide (a < b) := by
  have below : ∀ n, n < 2 ^ 53 → (NUM.ofNat n).bits.toNat < 0x7FF0000000000000 := by
    intro n hn
    by_cases h0 : n = 0
    · subst h0
      decide
    · exact (NUM.ofNat_bits_lt (a := 0) hn (by omega)).2
  obtain ⟨na, oa⟩ := NUM.order_of_bits_lt (below a ha)
  obtain ⟨nb, ob⟩ := NUM.order_of_bits_lt (below b hb)
  rw [Bool.eq_iff_iff, NUM.lt_iff, decide_eq_true_eq, oa, ob, Nat.cast_lt]
  refine ⟨fun h => ?_, fun h => ⟨na, nb, (NUM.ofNat_bits_lt hb h).1⟩⟩
  rcases Nat.lt_trichotomy a b with hlt | rfl | hgt
  · exact hlt
  · exact absurd h.2.2 (lt_irrefl _)
  · exact absurd h.2.2 (Nat.not_lt.mpr (NUM.ofNat_bits_lt ha hgt).1.le)

/-- The smaller of two converted integers. -/
theorem NUM.min_ofNat {a b : Nat} (ha : a < 2 ^ 53) (hb : b < 2 ^ 53) :
    (NUM.ofNat a).min (NUM.ofNat b) = NUM.ofNat (Min.min a b) := by
  rw [NUM.min, NUM.lt_ofNat hb ha]
  by_cases h : b < a
  · simp [h, min_eq_right h.le]
  · simp [h, min_eq_left (Nat.not_lt.mp h)]

/-- The larger of two converted integers. -/
theorem NUM.max_ofNat {a b : Nat} (ha : a < 2 ^ 53) (hb : b < 2 ^ 53) :
    (NUM.ofNat a).max (NUM.ofNat b) = NUM.ofNat (Max.max a b) := by
  rw [NUM.max, NUM.lt_ofNat ha hb]
  by_cases h : a < b
  · simp [h, max_eq_right h.le]
  · simp [h, max_eq_left (Nat.not_lt.mp h)]

/-- Adding a fixed number of terms: the empty sum. -/
@[simp] theorem NUM.sumUp_zero (f : Nat → NUM) : NUM.sumUp 0 f = NUM.zero := rfl

/-- Adding a fixed number of terms: the last one is added last. -/
theorem NUM.sumUp_succ (n : Nat) (f : Nat → NUM) : NUM.sumUp (n + 1) f = (NUM.sumUp n f).add (f n) := by
  simp [NUM.sumUp, List.range_succ]

/-- A sum depends on its terms only. -/
theorem NUM.sumUp_congr {n : Nat} {f g : Nat → NUM} (h : ∀ u < n, f u = g u) : NUM.sumUp n f = NUM.sumUp n g := by
  induction n with
  | zero => rfl
  | succ n ih => rw [NUM.sumUp_succ, NUM.sumUp_succ, ih fun u hu => h u (by omega), h n (by omega)]

end Sys2Proof
end

