-- ==== Sys2Proof/Laws/State.lean ====
section
/-! SUPPORT. One lemma per field per update of the state and of a context, so that no proof unfolds a record update. -/

namespace Sys2Proof.Machine

/-! ### `State.respond` -/

@[simp] theorem State.respond_params (s : State) (a : Result) (b : Reason) (d : BitVec 64) :
    (s.respond a b d).params = s.params := rfl
@[simp] theorem State.respond_ctrl (s : State) (a : Result) (b : Reason) (d : BitVec 64) :
    (s.respond a b d).ctrl = s.ctrl := rfl
@[simp] theorem State.respond_snrThreshold (s : State) (a : Result) (b : Reason) (d : BitVec 64) :
    (s.respond a b d).snrThreshold = s.snrThreshold := rfl
@[simp] theorem State.respond_ctxs (s : State) (a : Result) (b : Reason) (d : BitVec 64) :
    (s.respond a b d).ctxs = s.ctxs := rfl
@[simp] theorem State.respond_resp (s : State) (a : Result) (b : Reason) (d : BitVec 64) :
    (s.respond a b d).resp = some ⟨a, b, d⟩ := rfl
@[simp] theorem State.respond_stream (s : State) (a : Result) (b : Reason) (d : BitVec 64) :
    (s.respond a b d).stream = s.stream := rfl
@[simp] theorem State.respond_numVs (s : State) (a : Result) (b : Reason) (d : BitVec 64) :
    (s.respond a b d).numVs = s.numVs := rfl
@[simp] theorem State.respond_ctx (s : State) (a : Result) (b : Reason) (d : BitVec 64) (v : Nat) :
    (s.respond a b d).ctx v = s.ctx v := rfl

/-! ### `State.reject` -/

@[simp] theorem State.reject_params (s : State) (b : Reason) : (s.reject b).params = s.params := rfl
@[simp] theorem State.reject_ctrl (s : State) (b : Reason) : (s.reject b).ctrl = s.ctrl := rfl
@[simp] theorem State.reject_snrThreshold (s : State) (b : Reason) : (s.reject b).snrThreshold = s.snrThreshold := rfl
@[simp] theorem State.reject_ctxs (s : State) (b : Reason) : (s.reject b).ctxs = s.ctxs := rfl
@[simp] theorem State.reject_resp (s : State) (b : Reason) : (s.reject b).resp = some ⟨.reject, b, 0⟩ := rfl
@[simp] theorem State.reject_stream (s : State) (b : Reason) : (s.reject b).stream = s.stream := rfl
@[simp] theorem State.reject_numVs (s : State) (b : Reason) : (s.reject b).numVs = s.numVs := rfl
@[simp] theorem State.reject_ctx (s : State) (b : Reason) (v : Nat) : (s.reject b).ctx v = s.ctx v := rfl

/-! ### `State.answer` -/

@[simp] theorem State.answer_params (s : State) (d : BitVec 64) : (s.answer d).params = s.params := rfl
@[simp] theorem State.answer_ctrl (s : State) (d : BitVec 64) : (s.answer d).ctrl = s.ctrl := rfl
@[simp] theorem State.answer_snrThreshold (s : State) (d : BitVec 64) :
    (s.answer d).snrThreshold = s.snrThreshold := rfl
@[simp] theorem State.answer_ctxs (s : State) (d : BitVec 64) : (s.answer d).ctxs = s.ctxs := rfl
@[simp] theorem State.answer_resp (s : State) (d : BitVec 64) : (s.answer d).resp = some ⟨.ok, .none, d⟩ := rfl
@[simp] theorem State.answer_stream (s : State) (d : BitVec 64) : (s.answer d).stream = s.stream := rfl
@[simp] theorem State.answer_numVs (s : State) (d : BitVec 64) : (s.answer d).numVs = s.numVs := rfl
@[simp] theorem State.answer_ctx (s : State) (d : BitVec 64) (v : Nat) : (s.answer d).ctx v = s.ctx v := rfl

/-! ### `State.setCtx` -/

@[simp] theorem State.setCtx_params (s : State) (v : Nat) (c : Context) : (s.setCtx v c).params = s.params := rfl
@[simp] theorem State.setCtx_ctrl (s : State) (v : Nat) (c : Context) : (s.setCtx v c).ctrl = s.ctrl := rfl
@[simp] theorem State.setCtx_snrThreshold (s : State) (v : Nat) (c : Context) :
    (s.setCtx v c).snrThreshold = s.snrThreshold := rfl
@[simp] theorem State.setCtx_ctxs (s : State) (v : Nat) (c : Context) : (s.setCtx v c).ctxs = s.ctxs.set v c := rfl
@[simp] theorem State.setCtx_resp (s : State) (v : Nat) (c : Context) : (s.setCtx v c).resp = s.resp := rfl
@[simp] theorem State.setCtx_stream (s : State) (v : Nat) (c : Context) : (s.setCtx v c).stream = s.stream := rfl

/-! ### `State.finishRoi` -/

@[simp] theorem State.finishRoi_params (s : State) (v : Nat) (o : RoiOutcome) :
    (s.finishRoi v o).params = s.params := rfl
@[simp] theorem State.finishRoi_ctrl (s : State) (v : Nat) (o : RoiOutcome) : (s.finishRoi v o).ctrl = s.ctrl := rfl
@[simp] theorem State.finishRoi_snrThreshold (s : State) (v : Nat) (o : RoiOutcome) :
    (s.finishRoi v o).snrThreshold = s.snrThreshold := rfl
@[simp] theorem State.finishRoi_ctxs (s : State) (v : Nat) (o : RoiOutcome) :
    (s.finishRoi v o).ctxs = s.ctxs.set v (o.ctx.record o.result o.reason) := rfl
@[simp] theorem State.finishRoi_resp (s : State) (v : Nat) (o : RoiOutcome) :
    (s.finishRoi v o).resp = some ⟨o.result, o.reason, 0⟩ := rfl
@[simp] theorem State.finishRoi_stream (s : State) (v : Nat) (o : RoiOutcome) :
    (s.finishRoi v o).stream = s.stream := rfl

/-! ### `State.withFetchWord` -/

@[simp] theorem State.withFetchWord_params (s : State) (nbits w : Nat) :
    (s.withFetchWord nbits w).params = s.params := rfl
@[simp] theorem State.withFetchWord_ctrl (s : State) (nbits w : Nat) : (s.withFetchWord nbits w).ctrl = s.ctrl := rfl
@[simp] theorem State.withFetchWord_snrThreshold (s : State) (nbits w : Nat) :
    (s.withFetchWord nbits w).snrThreshold = s.snrThreshold := rfl
@[simp] theorem State.withFetchWord_ctxs (s : State) (nbits w : Nat) : (s.withFetchWord nbits w).ctxs = s.ctxs := rfl
@[simp] theorem State.withFetchWord_resp (s : State) (nbits w : Nat) : (s.withFetchWord nbits w).resp = s.resp := rfl
@[simp] theorem State.withFetchWord_stream (s : State) (nbits w : Nat) :
    (s.withFetchWord nbits w).stream = commandWords nbits w ++ s.stream := rfl
@[simp] theorem State.withFetchWord_numVs (s : State) (nbits w : Nat) :
    (s.withFetchWord nbits w).numVs = s.numVs := rfl
@[simp] theorem State.withFetchWord_ctx (s : State) (nbits w : Nat) (v : Nat) :
    (s.withFetchWord nbits w).ctx v = s.ctx v := rfl

/-! ### `State.resetAll` -/

@[simp] theorem State.resetAll_params (s : State) : (s.resetAll).params = s.params := rfl
@[simp] theorem State.resetAll_ctrl (s : State) : (s.resetAll).ctrl = 0 := rfl
@[simp] theorem State.resetAll_snrThreshold (s : State) : (s.resetAll).snrThreshold = ⟨0⟩ := rfl
@[simp] theorem State.resetAll_ctxs (s : State) :
    (s.resetAll).ctxs = List.replicate s.ctxs.length Context.reset := rfl
@[simp] theorem State.resetAll_resp (s : State) : (s.resetAll).resp = s.resp := rfl
@[simp] theorem State.resetAll_stream (s : State) : (s.resetAll).stream = s.stream := rfl

/-! ### `record` -/

@[simp] theorem Context.record_rangeOffset (c : Context) (a : Result) (b : Reason) :
    (c.record a b).rangeOffset = c.rangeOffset := rfl
@[simp] theorem Context.record_rangeLimit (c : Context) (a : Result) (b : Reason) :
    (c.record a b).rangeLimit = c.rangeLimit := rfl
@[simp] theorem Context.record_frameCount (c : Context) (a : Result) (b : Reason) :
    (c.record a b).frameCount = c.frameCount := rfl
@[simp] theorem Context.record_frameOpen (c : Context) (a : Result) (b : Reason) :
    (c.record a b).frameOpen = c.frameOpen := rfl
@[simp] theorem Context.record_hdrPrev (c : Context) (a : Result) (b : Reason) :
    (c.record a b).hdrPrev = c.hdrPrev := rfl
@[simp] theorem Context.record_hdrCorrected (c : Context) (a : Result) (b : Reason) :
    (c.record a b).hdrCorrected = c.hdrCorrected := rfl
@[simp] theorem Context.record_fd (c : Context) (a : Result) (b : Reason) : (c.record a b).fd = c.fd := rfl
@[simp] theorem Context.record_active (c : Context) (a : Result) (b : Reason) :
    (c.record a b).active = c.active := rfl
@[simp] theorem Context.record_raw0 (c : Context) (a : Result) (b : Reason) : (c.record a b).raw0 = c.raw0 := rfl
@[simp] theorem Context.record_raw1 (c : Context) (a : Result) (b : Reason) : (c.record a b).raw1 = c.raw1 := rfl
@[simp] theorem Context.record_vote (c : Context) (a : Result) (b : Reason) : (c.record a b).vote = c.vote := rfl
@[simp] theorem Context.record_stripeCount (c : Context) (a : Result) (b : Reason) :
    (c.record a b).stripeCount = c.stripeCount := rfl
@[simp] theorem Context.record_srow0 (c : Context) (a : Result) (b : Reason) : (c.record a b).srow0 = c.srow0 := rfl
@[simp] theorem Context.record_srow1 (c : Context) (a : Result) (b : Reason) : (c.record a b).srow1 = c.srow1 := rfl
@[simp] theorem Context.record_snorm (c : Context) (a : Result) (b : Reason) : (c.record a b).snorm = c.snorm := rfl
@[simp] theorem Context.record_hasOutput (c : Context) (a : Result) (b : Reason) :
    (c.record a b).hasOutput = c.hasOutput := rfl
@[simp] theorem Context.record_outRange (c : Context) (a : Result) (b : Reason) :
    (c.record a b).outRange = c.outRange := rfl
@[simp] theorem Context.record_outSignal (c : Context) (a : Result) (b : Reason) :
    (c.record a b).outSignal = c.outSignal := rfl
@[simp] theorem Context.record_outBackground (c : Context) (a : Result) (b : Reason) :
    (c.record a b).outBackground = c.outBackground := rfl
@[simp] theorem Context.record_outSnr (c : Context) (a : Result) (b : Reason) :
    (c.record a b).outSnr = c.outSnr := rfl
@[simp] theorem Context.record_desc (c : Context) (a : Result) (b : Reason) : (c.record a b).desc = c.desc := rfl
@[simp] theorem Context.record_pmask (c : Context) (a : Result) (b : Reason) : (c.record a b).pmask = c.pmask := rfl
@[simp] theorem Context.record_lastResult (c : Context) (a : Result) (b : Reason) :
    (c.record a b).lastResult = a := rfl
@[simp] theorem Context.record_lastReason (c : Context) (a : Result) (b : Reason) :
    (c.record a b).lastReason = b := rfl
@[simp] theorem Context.record_fatalSticky (c : Context) (a : Result) (b : Reason) :
    (c.record a b).fatalSticky = c.fatalSticky := rfl

/-! ### `fatal` -/

@[simp] theorem Context.fatal_rangeOffset (c : Context) (b : Reason) : (c.fatal b).rangeOffset = c.rangeOffset := rfl
@[simp] theorem Context.fatal_rangeLimit (c : Context) (b : Reason) : (c.fatal b).rangeLimit = c.rangeLimit := rfl
@[simp] theorem Context.fatal_frameCount (c : Context) (b : Reason) : (c.fatal b).frameCount = c.frameCount := rfl
@[simp] theorem Context.fatal_frameOpen (c : Context) (b : Reason) : (c.fatal b).frameOpen = false := rfl
@[simp] theorem Context.fatal_hdrPrev (c : Context) (b : Reason) : (c.fatal b).hdrPrev = none := rfl
@[simp] theorem Context.fatal_hdrCorrected (c : Context) (b : Reason) : (c.fatal b).hdrCorrected = false := rfl
@[simp] theorem Context.fatal_fd (c : Context) (b : Reason) : (c.fatal b).fd = c.fd := rfl
@[simp] theorem Context.fatal_active (c : Context) (b : Reason) : (c.fatal b).active = c.active := rfl
@[simp] theorem Context.fatal_raw0 (c : Context) (b : Reason) : (c.fatal b).raw0 = c.raw0 := rfl
@[simp] theorem Context.fatal_raw1 (c : Context) (b : Reason) : (c.fatal b).raw1 = c.raw1 := rfl
@[simp] theorem Context.fatal_vote (c : Context) (b : Reason) : (c.fatal b).vote = c.vote := rfl
@[simp] theorem Context.fatal_stripeCount (c : Context) (b : Reason) : (c.fatal b).stripeCount = c.stripeCount := rfl
@[simp] theorem Context.fatal_srow0 (c : Context) (b : Reason) : (c.fatal b).srow0 = c.srow0 := rfl
@[simp] theorem Context.fatal_srow1 (c : Context) (b : Reason) : (c.fatal b).srow1 = c.srow1 := rfl
@[simp] theorem Context.fatal_snorm (c : Context) (b : Reason) : (c.fatal b).snorm = c.snorm := rfl
@[simp] theorem Context.fatal_hasOutput (c : Context) (b : Reason) : (c.fatal b).hasOutput = c.hasOutput := rfl
@[simp] theorem Context.fatal_outRange (c : Context) (b : Reason) : (c.fatal b).outRange = c.outRange := rfl
@[simp] theorem Context.fatal_outSignal (c : Context) (b : Reason) : (c.fatal b).outSignal = c.outSignal := rfl
@[simp] theorem Context.fatal_outBackground (c : Context) (b : Reason) :
    (c.fatal b).outBackground = c.outBackground := rfl
@[simp] theorem Context.fatal_outSnr (c : Context) (b : Reason) : (c.fatal b).outSnr = c.outSnr := rfl
@[simp] theorem Context.fatal_desc (c : Context) (b : Reason) : (c.fatal b).desc = c.desc := rfl
@[simp] theorem Context.fatal_pmask (c : Context) (b : Reason) : (c.fatal b).pmask = c.pmask := rfl
@[simp] theorem Context.fatal_lastResult (c : Context) (b : Reason) : (c.fatal b).lastResult = .fatal := rfl
@[simp] theorem Context.fatal_lastReason (c : Context) (b : Reason) : (c.fatal b).lastReason = b := rfl
@[simp] theorem Context.fatal_fatalSticky (c : Context) (b : Reason) : (c.fatal b).fatalSticky = true := rfl

/-! ### `restart` -/

@[simp] theorem Context.restart_rangeOffset (c : Context) : (c.restart).rangeOffset = c.rangeOffset := rfl
@[simp] theorem Context.restart_rangeLimit (c : Context) : (c.restart).rangeLimit = c.rangeLimit := rfl
@[simp] theorem Context.restart_frameCount (c : Context) : (c.restart).frameCount = c.frameCount := rfl
@[simp] theorem Context.restart_frameOpen (c : Context) : (c.restart).frameOpen = false := rfl
@[simp] theorem Context.restart_hdrPrev (c : Context) : (c.restart).hdrPrev = none := rfl
@[simp] theorem Context.restart_hdrCorrected (c : Context) : (c.restart).hdrCorrected = false := rfl
@[simp] theorem Context.restart_fd (c : Context) : (c.restart).fd = FrameDesc.reset := rfl
@[simp] theorem Context.restart_active (c : Context) : (c.restart).active = [] := rfl
@[simp] theorem Context.restart_raw0 (c : Context) : (c.restart).raw0 = [] := rfl
@[simp] theorem Context.restart_raw1 (c : Context) : (c.restart).raw1 = [] := rfl
@[simp] theorem Context.restart_vote (c : Context) : (c.restart).vote = [] := rfl
@[simp] theorem Context.restart_stripeCount (c : Context) : (c.restart).stripeCount = 0 := rfl
@[simp] theorem Context.restart_srow0 (c : Context) : (c.restart).srow0 = [] := rfl
@[simp] theorem Context.restart_srow1 (c : Context) : (c.restart).srow1 = [] := rfl
@[simp] theorem Context.restart_snorm (c : Context) : (c.restart).snorm = [] := rfl
@[simp] theorem Context.restart_hasOutput (c : Context) : (c.restart).hasOutput = c.hasOutput := rfl
@[simp] theorem Context.restart_outRange (c : Context) : (c.restart).outRange = c.outRange := rfl
@[simp] theorem Context.restart_outSignal (c : Context) : (c.restart).outSignal = c.outSignal := rfl
@[simp] theorem Context.restart_outBackground (c : Context) : (c.restart).outBackground = c.outBackground := rfl
@[simp] theorem Context.restart_outSnr (c : Context) : (c.restart).outSnr = c.outSnr := rfl
@[simp] theorem Context.restart_desc (c : Context) : (c.restart).desc = c.desc := rfl
@[simp] theorem Context.restart_pmask (c : Context) : (c.restart).pmask = c.pmask := rfl
@[simp] theorem Context.restart_lastResult (c : Context) : (c.restart).lastResult = .ok := rfl
@[simp] theorem Context.restart_lastReason (c : Context) : (c.restart).lastReason = .none := rfl
@[simp] theorem Context.restart_fatalSticky (c : Context) : (c.restart).fatalSticky = false := rfl

/-! ### `setMaskBit` -/

@[simp] theorem Context.setMaskBit_rangeOffset (c : Context) (row col : Nat) (b : Bool) :
    (c.setMaskBit row col b).rangeOffset = c.rangeOffset := rfl
@[simp] theorem Context.setMaskBit_rangeLimit (c : Context) (row col : Nat) (b : Bool) :
    (c.setMaskBit row col b).rangeLimit = c.rangeLimit := rfl
@[simp] theorem Context.setMaskBit_frameCount (c : Context) (row col : Nat) (b : Bool) :
    (c.setMaskBit row col b).frameCount = c.frameCount := rfl
@[simp] theorem Context.setMaskBit_frameOpen (c : Context) (row col : Nat) (b : Bool) :
    (c.setMaskBit row col b).frameOpen = c.frameOpen := rfl
@[simp] theorem Context.setMaskBit_hdrPrev (c : Context) (row col : Nat) (b : Bool) :
    (c.setMaskBit row col b).hdrPrev = c.hdrPrev := rfl
@[simp] theorem Context.setMaskBit_hdrCorrected (c : Context) (row col : Nat) (b : Bool) :
    (c.setMaskBit row col b).hdrCorrected = c.hdrCorrected := rfl
@[simp] theorem Context.setMaskBit_fd (c : Context) (row col : Nat) (b : Bool) :
    (c.setMaskBit row col b).fd = c.fd := rfl
@[simp] theorem Context.setMaskBit_active (c : Context) (row col : Nat) (b : Bool) :
    (c.setMaskBit row col b).active = c.active := rfl
@[simp] theorem Context.setMaskBit_raw0 (c : Context) (row col : Nat) (b : Bool) :
    (c.setMaskBit row col b).raw0 = c.raw0 := rfl
@[simp] theorem Context.setMaskBit_raw1 (c : Context) (row col : Nat) (b : Bool) :
    (c.setMaskBit row col b).raw1 = c.raw1 := rfl
@[simp] theorem Context.setMaskBit_vote (c : Context) (row col : Nat) (b : Bool) :
    (c.setMaskBit row col b).vote = c.vote := rfl
@[simp] theorem Context.setMaskBit_stripeCount (c : Context) (row col : Nat) (b : Bool) :
    (c.setMaskBit row col b).stripeCount = c.stripeCount := rfl
@[simp] theorem Context.setMaskBit_srow0 (c : Context) (row col : Nat) (b : Bool) :
    (c.setMaskBit row col b).srow0 = c.srow0 := rfl
@[simp] theorem Context.setMaskBit_srow1 (c : Context) (row col : Nat) (b : Bool) :
    (c.setMaskBit row col b).srow1 = c.srow1 := rfl
@[simp] theorem Context.setMaskBit_snorm (c : Context) (row col : Nat) (b : Bool) :
    (c.setMaskBit row col b).snorm = c.snorm := rfl
@[simp] theorem Context.setMaskBit_hasOutput (c : Context) (row col : Nat) (b : Bool) :
    (c.setMaskBit row col b).hasOutput = c.hasOutput := rfl
@[simp] theorem Context.setMaskBit_outRange (c : Context) (row col : Nat) (b : Bool) :
    (c.setMaskBit row col b).outRange = c.outRange := rfl
@[simp] theorem Context.setMaskBit_outSignal (c : Context) (row col : Nat) (b : Bool) :
    (c.setMaskBit row col b).outSignal = c.outSignal := rfl
@[simp] theorem Context.setMaskBit_outBackground (c : Context) (row col : Nat) (b : Bool) :
    (c.setMaskBit row col b).outBackground = c.outBackground := rfl
@[simp] theorem Context.setMaskBit_outSnr (c : Context) (row col : Nat) (b : Bool) :
    (c.setMaskBit row col b).outSnr = c.outSnr := rfl
@[simp] theorem Context.setMaskBit_desc (c : Context) (row col : Nat) (b : Bool) :
    (c.setMaskBit row col b).desc = c.desc := rfl
@[simp] theorem Context.setMaskBit_pmask (c : Context) (row col : Nat) (b : Bool) :
    (c.setMaskBit row col b).pmask = Memory.write true c.pmask (pixKey row col) b := rfl
@[simp] theorem Context.setMaskBit_lastResult (c : Context) (row col : Nat) (b : Bool) :
    (c.setMaskBit row col b).lastResult = c.lastResult := rfl
@[simp] theorem Context.setMaskBit_lastReason (c : Context) (row col : Nat) (b : Bool) :
    (c.setMaskBit row col b).lastReason = c.lastReason := rfl
@[simp] theorem Context.setMaskBit_fatalSticky (c : Context) (row col : Nat) (b : Bool) :
    (c.setMaskBit row col b).fatalSticky = c.fatalSticky := rfl

/-! ### `openFrame` -/

@[simp] theorem openFrame_rangeOffset (c : Context) (h : RoiHeader) :
    (openFrame c h).rangeOffset = c.rangeOffset := rfl
@[simp] theorem openFrame_rangeLimit (c : Context) (h : RoiHeader) : (openFrame c h).rangeLimit = c.rangeLimit := rfl
@[simp] theorem openFrame_frameCount (c : Context) (h : RoiHeader) : (openFrame c h).frameCount = c.frameCount := rfl
@[simp] theorem openFrame_frameOpen (c : Context) (h : RoiHeader) : (openFrame c h).frameOpen = true := rfl
@[simp] theorem openFrame_hdrPrev (c : Context) (h : RoiHeader) : (openFrame c h).hdrPrev = c.hdrPrev := rfl
@[simp] theorem openFrame_hdrCorrected (c : Context) (h : RoiHeader) :
    (openFrame c h).hdrCorrected = c.hdrCorrected := rfl
@[simp] theorem openFrame_fd (c : Context) (h : RoiHeader) : (openFrame c h).fd = frameDescOf h := rfl
@[simp] theorem openFrame_active (c : Context) (h : RoiHeader) : (openFrame c h).active = [] := rfl
@[simp] theorem openFrame_raw0 (c : Context) (h : RoiHeader) : (openFrame c h).raw0 = [] := rfl
@[simp] theorem openFrame_raw1 (c : Context) (h : RoiHeader) : (openFrame c h).raw1 = [] := rfl
@[simp] theorem openFrame_vote (c : Context) (h : RoiHeader) : (openFrame c h).vote = [] := rfl
@[simp] theorem openFrame_stripeCount (c : Context) (h : RoiHeader) : (openFrame c h).stripeCount = 0 := rfl
@[simp] theorem openFrame_srow0 (c : Context) (h : RoiHeader) : (openFrame c h).srow0 = [] := rfl
@[simp] theorem openFrame_srow1 (c : Context) (h : RoiHeader) : (openFrame c h).srow1 = [] := rfl
@[simp] theorem openFrame_snorm (c : Context) (h : RoiHeader) : (openFrame c h).snorm = [] := rfl
@[simp] theorem openFrame_hasOutput (c : Context) (h : RoiHeader) : (openFrame c h).hasOutput = c.hasOutput := rfl
@[simp] theorem openFrame_outRange (c : Context) (h : RoiHeader) : (openFrame c h).outRange = c.outRange := rfl
@[simp] theorem openFrame_outSignal (c : Context) (h : RoiHeader) : (openFrame c h).outSignal = c.outSignal := rfl
@[simp] theorem openFrame_outBackground (c : Context) (h : RoiHeader) :
    (openFrame c h).outBackground = c.outBackground := rfl
@[simp] theorem openFrame_outSnr (c : Context) (h : RoiHeader) : (openFrame c h).outSnr = c.outSnr := rfl
@[simp] theorem openFrame_desc (c : Context) (h : RoiHeader) : (openFrame c h).desc = c.desc := rfl
@[simp] theorem openFrame_pmask (c : Context) (h : RoiHeader) : (openFrame c h).pmask = c.pmask := rfl
@[simp] theorem openFrame_lastResult (c : Context) (h : RoiHeader) : (openFrame c h).lastResult = c.lastResult := rfl
@[simp] theorem openFrame_lastReason (c : Context) (h : RoiHeader) : (openFrame c h).lastReason = c.lastReason := rfl
@[simp] theorem openFrame_fatalSticky (c : Context) (h : RoiHeader) :
    (openFrame c h).fatalSticky = c.fatalSticky := rfl

/-! ### `quantize` -/

@[simp] theorem quantize_rangeOffset (ctrl : BitVec 32) (thr : NUM) (c : Context) (rn : Grid NUM) (acc : Grid Accum) (g : Grid Bool) (h w : Nat) :
    (quantize ctrl thr c rn acc g h w).rangeOffset = c.rangeOffset := rfl
@[simp] theorem quantize_rangeLimit (ctrl : BitVec 32) (thr : NUM) (c : Context) (rn : Grid NUM) (acc : Grid Accum) (g : Grid Bool) (h w : Nat) :
    (quantize ctrl thr c rn acc g h w).rangeLimit = c.rangeLimit := rfl
@[simp] theorem quantize_frameCount (ctrl : BitVec 32) (thr : NUM) (c : Context) (rn : Grid NUM) (acc : Grid Accum) (g : Grid Bool) (h w : Nat) :
    (quantize ctrl thr c rn acc g h w).frameCount = c.frameCount := rfl
@[simp] theorem quantize_frameOpen (ctrl : BitVec 32) (thr : NUM) (c : Context) (rn : Grid NUM) (acc : Grid Accum) (g : Grid Bool) (h w : Nat) :
    (quantize ctrl thr c rn acc g h w).frameOpen = c.frameOpen := rfl
@[simp] theorem quantize_hdrPrev (ctrl : BitVec 32) (thr : NUM) (c : Context) (rn : Grid NUM) (acc : Grid Accum) (g : Grid Bool) (h w : Nat) :
    (quantize ctrl thr c rn acc g h w).hdrPrev = c.hdrPrev := rfl
@[simp] theorem quantize_hdrCorrected (ctrl : BitVec 32) (thr : NUM) (c : Context) (rn : Grid NUM) (acc : Grid Accum) (g : Grid Bool) (h w : Nat) :
    (quantize ctrl thr c rn acc g h w).hdrCorrected = c.hdrCorrected := rfl
@[simp] theorem quantize_fd (ctrl : BitVec 32) (thr : NUM) (c : Context) (rn : Grid NUM) (acc : Grid Accum) (g : Grid Bool) (h w : Nat) :
    (quantize ctrl thr c rn acc g h w).fd = c.fd := rfl
@[simp] theorem quantize_active (ctrl : BitVec 32) (thr : NUM) (c : Context) (rn : Grid NUM) (acc : Grid Accum) (g : Grid Bool) (h w : Nat) :
    (quantize ctrl thr c rn acc g h w).active = c.active := rfl
@[simp] theorem quantize_raw0 (ctrl : BitVec 32) (thr : NUM) (c : Context) (rn : Grid NUM) (acc : Grid Accum) (g : Grid Bool) (h w : Nat) :
    (quantize ctrl thr c rn acc g h w).raw0 = c.raw0 := rfl
@[simp] theorem quantize_raw1 (ctrl : BitVec 32) (thr : NUM) (c : Context) (rn : Grid NUM) (acc : Grid Accum) (g : Grid Bool) (h w : Nat) :
    (quantize ctrl thr c rn acc g h w).raw1 = c.raw1 := rfl
@[simp] theorem quantize_vote (ctrl : BitVec 32) (thr : NUM) (c : Context) (rn : Grid NUM) (acc : Grid Accum) (g : Grid Bool) (h w : Nat) :
    (quantize ctrl thr c rn acc g h w).vote = c.vote := rfl
@[simp] theorem quantize_stripeCount (ctrl : BitVec 32) (thr : NUM) (c : Context) (rn : Grid NUM) (acc : Grid Accum) (g : Grid Bool) (h w : Nat) :
    (quantize ctrl thr c rn acc g h w).stripeCount = c.stripeCount := rfl
@[simp] theorem quantize_srow0 (ctrl : BitVec 32) (thr : NUM) (c : Context) (rn : Grid NUM) (acc : Grid Accum) (g : Grid Bool) (h w : Nat) :
    (quantize ctrl thr c rn acc g h w).srow0 = c.srow0 := rfl
@[simp] theorem quantize_srow1 (ctrl : BitVec 32) (thr : NUM) (c : Context) (rn : Grid NUM) (acc : Grid Accum) (g : Grid Bool) (h w : Nat) :
    (quantize ctrl thr c rn acc g h w).srow1 = c.srow1 := rfl
@[simp] theorem quantize_snorm (ctrl : BitVec 32) (thr : NUM) (c : Context) (rn : Grid NUM) (acc : Grid Accum) (g : Grid Bool) (h w : Nat) :
    (quantize ctrl thr c rn acc g h w).snorm = c.snorm := rfl
@[simp] theorem quantize_hasOutput (ctrl : BitVec 32) (thr : NUM) (c : Context) (rn : Grid NUM) (acc : Grid Accum) (g : Grid Bool) (h w : Nat) :
    (quantize ctrl thr c rn acc g h w).hasOutput = c.hasOutput := rfl
@[simp] theorem quantize_desc (ctrl : BitVec 32) (thr : NUM) (c : Context) (rn : Grid NUM) (acc : Grid Accum) (g : Grid Bool) (h w : Nat) :
    (quantize ctrl thr c rn acc g h w).desc = c.desc := rfl
@[simp] theorem quantize_pmask (ctrl : BitVec 32) (thr : NUM) (c : Context) (rn : Grid NUM) (acc : Grid Accum) (g : Grid Bool) (h w : Nat) :
    (quantize ctrl thr c rn acc g h w).pmask = c.pmask := rfl
@[simp] theorem quantize_lastResult (ctrl : BitVec 32) (thr : NUM) (c : Context) (rn : Grid NUM) (acc : Grid Accum) (g : Grid Bool) (h w : Nat) :
    (quantize ctrl thr c rn acc g h w).lastResult = c.lastResult := rfl
@[simp] theorem quantize_lastReason (ctrl : BitVec 32) (thr : NUM) (c : Context) (rn : Grid NUM) (acc : Grid Accum) (g : Grid Bool) (h w : Nat) :
    (quantize ctrl thr c rn acc g h w).lastReason = c.lastReason := rfl
@[simp] theorem quantize_fatalSticky (ctrl : BitVec 32) (thr : NUM) (c : Context) (rn : Grid NUM) (acc : Grid Accum) (g : Grid Bool) (h w : Nat) :
    (quantize ctrl thr c rn acc g h w).fatalSticky = c.fatalSticky := rfl

/-! ### `framePipeline` -/

@[simp] theorem framePipeline_rangeOffset (p : Params) (ctrl : BitVec 32) (thr : NUM) (c : Context) :
    (framePipeline p ctrl thr c).rangeOffset = c.rangeOffset := rfl
@[simp] theorem framePipeline_rangeLimit (p : Params) (ctrl : BitVec 32) (thr : NUM) (c : Context) :
    (framePipeline p ctrl thr c).rangeLimit = c.rangeLimit := rfl
@[simp] theorem framePipeline_frameCount (p : Params) (ctrl : BitVec 32) (thr : NUM) (c : Context) :
    (framePipeline p ctrl thr c).frameCount = c.frameCount + 1 := rfl
@[simp] theorem framePipeline_frameOpen (p : Params) (ctrl : BitVec 32) (thr : NUM) (c : Context) :
    (framePipeline p ctrl thr c).frameOpen = false := rfl
@[simp] theorem framePipeline_hdrPrev (p : Params) (ctrl : BitVec 32) (thr : NUM) (c : Context) :
    (framePipeline p ctrl thr c).hdrPrev = c.hdrPrev := rfl
@[simp] theorem framePipeline_hdrCorrected (p : Params) (ctrl : BitVec 32) (thr : NUM) (c : Context) :
    (framePipeline p ctrl thr c).hdrCorrected = c.hdrCorrected := rfl
@[simp] theorem framePipeline_fd (p : Params) (ctrl : BitVec 32) (thr : NUM) (c : Context) :
    (framePipeline p ctrl thr c).fd = c.fd := rfl
@[simp] theorem framePipeline_active (p : Params) (ctrl : BitVec 32) (thr : NUM) (c : Context) :
    (framePipeline p ctrl thr c).active = c.active := rfl
@[simp] theorem framePipeline_raw0 (p : Params) (ctrl : BitVec 32) (thr : NUM) (c : Context) :
    (framePipeline p ctrl thr c).raw0 = c.raw0 := rfl
@[simp] theorem framePipeline_raw1 (p : Params) (ctrl : BitVec 32) (thr : NUM) (c : Context) :
    (framePipeline p ctrl thr c).raw1 = c.raw1 := rfl
@[simp] theorem framePipeline_vote (p : Params) (ctrl : BitVec 32) (thr : NUM) (c : Context) :
    (framePipeline p ctrl thr c).vote = c.vote := rfl
@[simp] theorem framePipeline_stripeCount (p : Params) (ctrl : BitVec 32) (thr : NUM) (c : Context) :
    (framePipeline p ctrl thr c).stripeCount = c.stripeCount := rfl
@[simp] theorem framePipeline_srow0 (p : Params) (ctrl : BitVec 32) (thr : NUM) (c : Context) :
    (framePipeline p ctrl thr c).srow0 = c.srow0 := rfl
@[simp] theorem framePipeline_srow1 (p : Params) (ctrl : BitVec 32) (thr : NUM) (c : Context) :
    (framePipeline p ctrl thr c).srow1 = c.srow1 := rfl
@[simp] theorem framePipeline_snorm (p : Params) (ctrl : BitVec 32) (thr : NUM) (c : Context) :
    (framePipeline p ctrl thr c).snorm = c.snorm := rfl
@[simp] theorem framePipeline_hasOutput (p : Params) (ctrl : BitVec 32) (thr : NUM) (c : Context) :
    (framePipeline p ctrl thr c).hasOutput = true := rfl
@[simp] theorem framePipeline_desc (p : Params) (ctrl : BitVec 32) (thr : NUM) (c : Context) :
    (framePipeline p ctrl thr c).desc = descriptorOf c.fd (finalRaw c).h (finalRaw c).w := rfl
@[simp] theorem framePipeline_pmask (p : Params) (ctrl : BitVec 32) (thr : NUM) (c : Context) :
    (framePipeline p ctrl thr c).pmask = c.pmask := rfl
@[simp] theorem framePipeline_lastResult (p : Params) (ctrl : BitVec 32) (thr : NUM) (c : Context) :
    (framePipeline p ctrl thr c).lastResult = c.lastResult := rfl
@[simp] theorem framePipeline_lastReason (p : Params) (ctrl : BitVec 32) (thr : NUM) (c : Context) :
    (framePipeline p ctrl thr c).lastReason = c.lastReason := rfl
@[simp] theorem framePipeline_fatalSticky (p : Params) (ctrl : BitVec 32) (thr : NUM) (c : Context) :
    (framePipeline p ctrl thr c).fatalSticky = c.fatalSticky := rfl

end Sys2Proof.Machine
end

