-- ==== Sys2Proof/Laws/Ops.lean ====
section
/-! SUPPORT. For each command and each shared operation one lemma that says once everything it can do. -/

namespace Sys2Proof.Machine

/-! ### The commands as next states -/

theorem exec_nop (f : CmdFields) (s : State) : exec (.nop f) s = .next (nopState f s) := rfl
theorem exec_reset (f : CmdFields) (s : State) : exec (.reset f) s = .next (resetState f s) := rfl
theorem exec_vsreset (f : CmdFields) (s : State) : exec (.vsreset f) s = .next (vsresetState f s) := rfl
theorem exec_wrreg (f : CmdFields) (s : State) : exec (.wrreg f) s = .next (wrregState f s) := rfl
theorem exec_rdreg (f : CmdFields) (s : State) : exec (.rdreg f) s = .next (rdregState f s) := rfl
theorem exec_roi (f : CmdFields) (record : List Word) (s : State) :
    exec (.roi f record) s = .next (roiState f record s) := rfl
theorem exec_rdout (f : CmdFields) (s : State) : exec (.rdout f) s = .next (rdoutState f s) := rfl
theorem exec_rddesc (f : CmdFields) (s : State) : exec (.rddesc f) s = .next (rddescState f s) := rfl
theorem exec_wrmask (f : CmdFields) (s : State) : exec (.wrmask f) s = .next (wrmaskState f s) := rfl
theorem exec_rdmask (f : CmdFields) (s : State) : exec (.rdmask f) s = .next (rdmaskState f s) := rfl

/-! ### Contexts -/

/-- The context of a virtual sensor that exists. -/
theorem State.ctx_of_getElem? {s : State} {v : Nat} {c : Context} (h : s.ctxs[v]? = some c) : s.ctx v = c := by
  simp [State.ctx, List.getD, h]

/-- A virtual sensor below NUM_VS has a context. -/
theorem State.getElem?_of_lt {s : State} {v : Nat} (h : v < s.numVs) : s.ctxs[v]? = some (s.ctx v) := by
  have h' : v < s.ctxs.length := h
  simp [State.ctx, List.getD, h']

/-- A virtual sensor with a context is below NUM_VS. -/
theorem State.lt_of_getElem? {s : State} {v : Nat} {c : Context} (h : s.ctxs[v]? = some c) : v < s.numVs :=
  (List.getElem?_eq_some_iff.mp h).1

/-! ### What each command can do -/

theorem nopState_cases (f : CmdFields) (s : State) :
    nopState f s = s.reject .reservedField ∨ nopState f s = s.answer 0 := by
  unfold nopState
  split <;> simp

theorem resetState_cases (f : CmdFields) (s : State) :
    resetState f s = s.reject .reservedField ∨ resetState f s = s.resetAll.answer 0 := by
  unfold resetState
  split <;> simp

theorem vsresetState_cases (f : CmdFields) (s : State) :
    (∃ reason, vsresetState f s = s.reject reason) ∨
      (vsOf f < s.numVs ∧ vsresetState f s = (s.setCtx (vsOf f) (s.ctx (vsOf f)).restart).answer 0) := by
  unfold vsresetState
  split
  · exact .inl ⟨_, rfl⟩
  · split
    · exact .inl ⟨_, rfl⟩
    · exact .inr ⟨by omega, rfl⟩

theorem wrregState_cases (f : CmdFields) (s : State) :
    (∃ reason, wrregState f s = s.reject reason) ∨
      ∃ r, regOfNumber f.imm = some r ∧ regAccessError s f r = none ∧ r.isReadOnly = false ∧
        r.legalValue f.arg = true ∧ f.sel = 0 ∧ wrregState f s = (s.writeReg r (vsOf f) f.arg).answer 0 := by
  unfold wrregState
  split
  · exact .inl ⟨_, rfl⟩
  · rename_i hsel
    split
    · exact .inl ⟨_, rfl⟩
    · rename_i r hr
      split
      · exact .inl ⟨_, rfl⟩
      · rename_i hacc
        split
        · exact .inl ⟨_, rfl⟩
        · rename_i hro
          split
          · exact .inl ⟨_, rfl⟩
          · rename_i hval
            exact .inr ⟨r, hr, hacc, by simpa using hro, by simpa using hval, by simpa using hsel, rfl⟩

theorem rdregState_cases (f : CmdFields) (s : State) :
    (∃ reason, rdregState f s = s.reject reason) ∨
      ∃ r, regOfNumber f.imm = some r ∧ regAccessError s f r = none ∧
        rdregState f s = s.answer (s.readReg r (vsOf f)) := by
  unfold rdregState
  split
  · exact .inl ⟨_, rfl⟩
  · split
    · exact .inl ⟨_, rfl⟩
    · rename_i r hr
      split
      · exact .inl ⟨_, rfl⟩
      · rename_i hacc
        exact .inr ⟨r, hr, hacc, rfl⟩

theorem rdoutState_cases (f : CmdFields) (s : State) :
    (∃ reason, rdoutState f s = s.reject reason) ∨ ∃ x, rdoutState f s = s.answer x := by
  unfold rdoutState
  repeat' split
  all_goals first | exact .inl ⟨_, rfl⟩ | exact .inr ⟨_, rfl⟩

theorem rddescState_cases (f : CmdFields) (s : State) :
    (∃ reason, rddescState f s = s.reject reason) ∨ ∃ x, rddescState f s = s.answer x := by
  unfold rddescState
  repeat' split
  all_goals first | exact .inl ⟨_, rfl⟩ | exact .inr ⟨_, rfl⟩

theorem wrmaskState_cases (f : CmdFields) (s : State) :
    (∃ reason, wrmaskState f s = s.reject reason) ∨
      (vsOf f < s.numVs ∧ rowOf f < s.params.maxRows.val ∧ colOf f < s.params.maxCols.val ∧
        wrmaskState f s =
          (s.setCtx (vsOf f) ((s.ctx (vsOf f)).setMaskBit (rowOf f) (colOf f) (f.imm.getLsbD 0))).answer 0) := by
  unfold wrmaskState
  split
  · exact .inl ⟨_, rfl⟩
  · split
    · exact .inl ⟨_, rfl⟩
    · split
      · exact .inl ⟨_, rfl⟩
      · exact .inr ⟨by omega, by omega, by omega, rfl⟩

theorem rdmaskState_cases (f : CmdFields) (s : State) :
    (∃ reason, rdmaskState f s = s.reject reason) ∨ ∃ x, rdmaskState f s = s.answer x := by
  unfold rdmaskState
  repeat' split
  all_goals first | exact .inl ⟨_, rfl⟩ | exact .inr ⟨_, rfl⟩

theorem roiState_cases (f : CmdFields) (record : List Word) (s : State) :
    roiState f record s = s.reject .reservedField ∨
      (∃ reason, validate s.params s.numVs record = .unattributed reason ∧
        roiState f record s = s.respond .fatal reason 0) ∨
      (∃ v reason, validate s.params s.numVs record = .malformed v reason ∧
        roiState f record s = s.finishRoi v (fatalOutcome (s.ctx v) reason)) ∨
      ∃ v roi, validate s.params s.numVs record = .valid v roi ∧
        roiState f record s =
          s.finishRoi v (sequenceRoi s.params s.ctrl s.snrThreshold (s.ctx v) roi) := by
  unfold roiState
  split
  · exact .inl rfl
  · split
    · rename_i reason h
      exact .inr (.inl ⟨reason, h, rfl⟩)
    · rename_i v reason h
      exact .inr (.inr (.inl ⟨v, reason, h, rfl⟩))
    · rename_i v roi h
      exact .inr (.inr (.inr ⟨v, roi, h, rfl⟩))

/-! ### Registers -/

/-- A write of a register: the global pair, or one field of one context. -/
theorem writeReg_cases (s : State) (r : RegId) (v : Nat) (x : BitVec 64) (hr : r.isReadOnly = false) :
    (r = .ctrl ∧ s.writeReg r v x = { s with ctrl := x.setWidth 32 }) ∨
      (r = .snrThreshold ∧ s.writeReg r v x = { s with snrThreshold := ⟨x⟩ }) ∨
      (r = .rangeOffset ∧ s.writeReg r v x = s.setCtx v { s.ctx v with rangeOffset := ⟨x⟩ }) ∨
      (r = .rangeLimit ∧ s.writeReg r v x = s.setCtx v { s.ctx v with rangeLimit := ⟨x⟩ }) := by
  cases r <;> simp_all [State.writeReg, RegId.isReadOnly]

/-- The checks WRREG and RDREG share pass: a global register is named with VS 0, the others with a VS below NUM_VS. -/
theorem regAccessError_none (s : State) (f : CmdFields) (r : RegId) :
    regAccessError s f r = none ↔ (r.isGlobal = true → f.vs = 0) ∧ (r.isGlobal = false → vsOf f < s.numVs) := by
  unfold regAccessError
  cases r.isGlobal <;> simp

/-- The scope of a register number is that of its register. -/
theorem isGlobal_of_regOfNumber {n : BitVec 16} {r : RegId} (h : regOfNumber n = some r) :
    isGlobalRegNumber n = r.isGlobal := by
  unfold regOfNumber at h
  split at h <;> simp only [Option.some.injEq, reduceCtorEq] at h <;> subst h <;>
    (rename_i hn; have e : n = BitVec.ofNat 16 n.toNat := by simp
     rw [hn] at e; subst e; rfl)

/-! ### The ROI command -/

/-- What passes validation: a record of at least a header, a virtual sensor that exists, and a legal ROI. -/
theorem validate_valid {p : Params} {n : Nat} {record : List Word} {v : Nat} {roi : RoiRecord}
    (h : validate p n record = .valid v roi) :
    12 ≤ record.length ∧ v < n ∧ v = (headerOf record).vsid.toNat ∧ roi = roiOf record ∧
      reservedHeaderZero record = true ∧ RoiRecord.legal p roi = true := by
  unfold validate at h
  split at h
  · cases h
  · rename_i hlen
    split at h
    · cases h
    · rename_i hvs
      split at h
      · cases h
      · rename_i hf
        cases h
        refine ⟨by omega, by omega, rfl, rfl, ?_⟩
        unfold headerFault at hf
        have hl : 12 + (record.length - 12) = record.length := by omega
        simp only [] at hf
        split at hf
        · cases hf
        · rename_i h3
          split at hf
          · cases hf
          · rename_i h4
            split at hf
            · cases hf
            · rename_i h5
              split at hf
              · cases hf
              · rename_i h6
                split at hf
                · cases hf
                · rename_i h7
                  split at hf
                  · cases hf
                  · rename_i h8
                    split at hf
                    · cases hf
                    · rename_i h9
                      simp only [Bool.not_eq_true, Bool.not_eq_false'] at h3 h6 h7 h8 h9
                      simp [RoiRecord.legal, roiOf, h3, h4, h5, h6, h7, h8, h9, hl]

/-- What is rejected with a virtual sensor: one that exists, named by a whole header. -/
theorem validate_malformed {p : Params} {n : Nat} {record : List Word} {v : Nat} {reason : Reason}
    (h : validate p n record = .malformed v reason) :
    12 ≤ record.length ∧ v < n ∧ v = (headerOf record).vsid.toNat ∧ headerFault p record = some reason := by
  unfold validate at h
  split at h
  · cases h
  · split at h
    · cases h
    · split at h
      · rename_i hf
        cases h
        exact ⟨by omega, by omega, rfl, hf⟩
      · cases h

/-- What is rejected without a virtual sensor. -/
theorem validate_unattributed {p : Params} {n : Nat} {record : List Word} {reason : Reason}
    (h : validate p n record = .unattributed reason) :
    (record.length < 12 ∧ reason = .badLength) ∨
      (12 ≤ record.length ∧ n ≤ (headerOf record).vsid.toNat ∧ reason = .badVsid) := by
  unfold validate at h
  split at h
  · cases h
    exact .inl ⟨‹_›, rfl⟩
  · split at h
    · cases h
      exact .inr ⟨by omega, ‹_›, rfl⟩
    · split at h <;> cases h

@[simp] theorem Conditioned.ctx_emitted (c : Context) (roi : RoiRecord) : (Conditioned.emitted c roi).ctx = c := rfl
@[simp] theorem Conditioned.ctx_stored (c : Context) : (Conditioned.stored c).ctx = c := rfl
@[simp] theorem Conditioned.ctx_badShape (c : Context) : (Conditioned.badShape c).ctx = c := rfl
@[simp] theorem ConditionRun.after_emitted (c : Context) (roi : RoiRecord) (run : ConditionRun) :
    ConditionRun.after (.emitted c roi) run = { run with emitted := roi :: run.emitted } := rfl
@[simp] theorem ConditionRun.after_stored (c : Context) (run : ConditionRun) :
    ConditionRun.after (.stored c) run = { run with stored := run.stored + 1 } := rfl
@[simp] theorem ConditionRun.after_badShape (c : Context) (run : ConditionRun) :
    ConditionRun.after (.badShape c) run = { run with badShape := run.badShape + 1 } := rfl
@[simp] theorem conditionAll_nil (p : Params) (ctrl : BitVec 32) (c : Context) :
    conditionAll p ctrl c [] = ⟨c, [], 0, 0⟩ := rfl

/-- HDR is active under the three conditions of 41_roi_conditioner.md R200. -/
theorem hdrActive_iff {ctrl : BitVec 32} {h : RoiHeader} :
    hdrActive ctrl h = true ↔ ctrl.getLsbD 2 = true ∧ h.hdrDisabled = false ∧ h.mode = .stripe := by
  simp [hdrActive, ctrlHdrEnabled, and_assoc]

/-- HDR is not active when one of the three conditions of 41_roi_conditioner.md R200 fails. -/
theorem hdrActive_eq_false_iff {ctrl : BitVec 32} {h : RoiHeader} :
    hdrActive ctrl h = false ↔ ctrl.getLsbD 2 = false ∨ h.hdrDisabled = true ∨ h.mode = .grid := by
  rw [Bool.eq_false_iff, Ne, hdrActive_iff]
  cases ctrl.getLsbD 2 <;> cases h.hdrDisabled <;> cases h.mode <;> simp

/-- A retake's shape is the five fields of 41_roi_conditioner.md R204. -/
theorem sameShape_iff {p roi : RoiRecord} :
    sameShape p roi = true ↔
      roi.header.nRows = p.header.nRows ∧ roi.header.winNcols = p.header.winNcols ∧
      roi.header.nrot = p.header.nrot ∧ roi.header.startRow = p.header.startRow ∧
      roi.header.tapAccum = p.header.tapAccum := by
  simp [sameShape, and_assoc]

/-- A ROI matches a frame under the conditions of 42_frame_assembler.md R221. -/
theorem frameMatch_iff {fd : FrameDesc} {h : RoiHeader} :
    frameMatch fd h = true ↔
      h.mode = fd.mode ∧ h.binning = fd.bin ∧ h.winRow0 = fd.winRow0 ∧ h.winNrows = fd.winNrows ∧
      h.winCol0 = fd.winCol0 ∧ h.winNcols = fd.winNcols ∧ h.n0 = fd.n0 ∧ h.n1 = fd.n1 ∧
      h.freq0.bits = fd.f0.bits ∧ h.freq1.bits = fd.f1.bits ∧ (h.mode = .stripe → h.nRows = fd.sNrows) := by
  have num : ∀ a b : NUM, a = b ↔ a.bits = b.bits := fun a b =>
    ⟨congrArg NUM.bits, fun e => by cases a; cases b; exact congrArg NUM.mk e⟩
  simp only [frameMatch, Bool.and_eq_true, Bool.or_eq_true, beq_iff_eq, and_assoc, num]
  constructor
  · rintro ⟨h1, h2, h3, h4, h5, h6, h7, h8, h9, h10, h11⟩
    exact ⟨h1, h2, h3, h4, h5, h6, h7, h8, h9, h10, fun hs => h11.resolve_left (by rw [← h1, hs]; decide)⟩
  · rintro ⟨h1, h2, h3, h4, h5, h6, h7, h8, h9, h10, h11⟩
    refine ⟨h1, h2, h3, h4, h5, h6, h7, h8, h9, h10, ?_⟩
    cases hm : h.mode
    · exact .inl (h1 ▸ hm)
    · exact .inr (h11 hm)

/-- The conditioner's four branches. -/
theorem condition_cases (p : Params) (ctrl : BitVec 32) (c : Context) (roi : RoiRecord) :
    (hdrActive ctrl roi.header = false ∧ condition p ctrl c roi = .emitted c roi) ∨
      (hdrActive ctrl roi.header = true ∧ (c.hdrPrev = none ∨ c.hdrCorrected = true) ∧
        condition p ctrl c roi = storeRoi c roi) ∨
      (∃ held, hdrActive ctrl roi.header = true ∧ c.hdrPrev = some held ∧ c.hdrCorrected = false ∧
        roi.header.prevSaturated = true ∧ condition p ctrl c roi = mergeRetake p.satThresh c held roi) ∨
      ∃ held, hdrActive ctrl roi.header = true ∧ c.hdrPrev = some held ∧ c.hdrCorrected = false ∧
        roi.header.prevSaturated = false ∧ condition p ctrl c roi = swapRoi c held roi := by
  unfold condition
  cases ha : hdrActive ctrl roi.header
  · exact .inl ⟨rfl, rfl⟩
  · refine .inr ?_
    cases hp : c.hdrPrev with
    | none => exact .inl ⟨rfl, .inl rfl, rfl⟩
    | some held =>
      cases hc : c.hdrCorrected
      · cases hs : roi.header.prevSaturated
        · exact .inr (.inr ⟨held, rfl, rfl, rfl, rfl, rfl⟩)
        · exact .inr (.inl ⟨held, rfl, rfl, rfl, rfl, rfl⟩)
      · exact .inl ⟨rfl, .inr rfl, rfl⟩

/-- The merge answers a ROI, or FATAL on a different shape. -/
theorem mergeRetake_cases (sat : NUM) (c : Context) (held roi : RoiRecord) :
    (sameShape held roi = true ∧ mergeRetake sat c held roi =
        .emitted { c with hdrCorrected := true }
          ⟨headerOfMerge held.header roi.header, mergePayload sat held roi⟩) ∨
      (sameShape held roi = false ∧ mergeRetake sat c held roi = .badShape c) := by
  unfold mergeRetake
  cases h : sameShape held roi <;> simp

/-- Step 5 of the sequence: open, skip, mismatch, or join. -/
theorem frameStep_cases (p : Params) (ctrl : BitVec 32) (thr : NUM) (c : Context) (e : RoiView) :
    (e.header.firstOfFrame = true ∧ frameStep p ctrl thr c e = assembleStep p ctrl thr (openFrame c e.header) e) ∨
      (e.header.firstOfFrame = false ∧ c.frameOpen = false ∧ frameStep p ctrl thr c e =
        ⟨.skip, if e.header.frameCompleted then .completeWithoutFirst else .noFirstRoi, c⟩) ∨
      (e.header.firstOfFrame = false ∧ c.frameOpen = true ∧ frameMatch c.fd e.header = false ∧
        frameStep p ctrl thr c e = fatalOutcome c .frameMismatch) ∨
      (e.header.firstOfFrame = false ∧ c.frameOpen = true ∧ frameMatch c.fd e.header = true ∧
        frameStep p ctrl thr c e = assembleStep p ctrl thr c e) := by
  unfold frameStep
  cases hf : e.header.firstOfFrame
  · cases ho : c.frameOpen
    · exact .inr (.inl ⟨rfl, rfl, rfl⟩)
    · cases hm : frameMatch c.fd e.header
      · exact .inr (.inr (.inl ⟨rfl, rfl, rfl, rfl⟩))
      · exact .inr (.inr (.inr ⟨rfl, rfl, rfl, rfl⟩))
  · exact .inl ⟨rfl, rfl⟩

/-- Step 6 of the sequence, by the mode of the open frame. -/
theorem assembleStep_cases (p : Params) (ctrl : BitVec 32) (thr : NUM) (c : Context) (e : RoiView) :
    (c.fd.mode = .grid ∧ assembleStep p ctrl thr c e = completeStep p ctrl thr (gridAccumulate c e) e.header) ∨
      (c.fd.mode = .stripe ∧ stripeAccumulate p ctrl c e = none ∧
        assembleStep p ctrl thr c e = fatalOutcome c .stripeOverflow) ∨
      ∃ c', c.fd.mode = .stripe ∧ stripeAccumulate p ctrl c e = some c' ∧
        assembleStep p ctrl thr c e = completeStep p ctrl thr c' e.header := by
  unfold assembleStep
  cases hm : c.fd.mode
  · exact .inl ⟨rfl, rfl⟩
  · refine .inr ?_
    cases hs : stripeAccumulate p ctrl c e with
    | none => exact .inl ⟨rfl, rfl, rfl⟩
    | some c' => exact .inr ⟨c', rfl, rfl, rfl⟩

/-- Steps 7 and 8 of the sequence. -/
theorem completeStep_cases (p : Params) (ctrl : BitVec 32) (thr : NUM) (c : Context) (h : RoiHeader) :
    (h.frameCompleted = true ∧ completeStep p ctrl thr c h = ⟨.emit, .none, framePipeline p ctrl thr c⟩) ∨
      (h.frameCompleted = false ∧ completeStep p ctrl thr c h = ⟨.ok, .none, c⟩) := by
  unfold completeStep
  cases hc : h.frameCompleted <;> simp

/-! ### Assembling -/

/-- A vote changes at most the vote and the two triples of a pixel. -/
theorem votePixel_frame (e : RoiView) (i r : Nat) (c : Context) (col : Nat) :
    votePixel e i r c col =
      { c with
        vote := (votePixel e i r c col).vote
        raw0 := (votePixel e i r c col).raw0
        raw1 := (votePixel e i r c col).raw1 } := by
  unfold votePixel
  simp only []
  split <;> rfl

/-- A stripe is refused when MAX_ROWS are held, and accepted otherwise. -/
theorem stripeAccumulate_cases (p : Params) (ctrl : BitVec 32) (c : Context) (e : RoiView) :
    (p.maxRows.val ≤ c.stripeCount ∧ stripeAccumulate p ctrl c e = none) ∨
      (c.stripeCount < p.maxRows.val ∧ ∃ sr0 sr1 sn, stripeAccumulate p ctrl c e =
        some { c with
          srow0 := Memory.writeRow Taps.zero c.srow0 c.stripeCount c.fd.outCols sr0
          srow1 := Memory.writeRow Taps.zero c.srow1 c.stripeCount c.fd.outCols sr1
          snorm := Memory.writeRow NUM.zero c.snorm c.stripeCount c.fd.outCols sn
          stripeCount := c.stripeCount + 1 }) := by
  unfold stripeAccumulate
  simp only []
  split
  · exact .inl ⟨‹_›, rfl⟩
  · exact .inr ⟨by omega, _, _, _, rfl⟩

/-- The size of the binned frame. -/
theorem finalRaw_size (c : Context) :
    (finalRaw c).w = c.fd.outCols ∧
      (finalRaw c).h = (match c.fd.mode with | .grid => c.fd.gridRows | .stripe => c.stripeCount) := by
  unfold finalRaw
  cases c.fd.mode <;> exact ⟨rfl, rfl⟩

end Sys2Proof.Machine
end

