-- ==== Sys2Proof/Laws/PerInstr.lean ====
section
/-! SUPPORT. One family of facts about a command as syntax: its encoding carries its opcode and its fields, and is three
words and its record (30_encoding.md R100, R101, R127). -/

namespace Sys2Proof.Laws.OpcodeOfEncoding

/-- The first three words of the encoding carry the command's opcode and fields, and its record follows. -/
def Statement (i : Instr) : Prop :=
  ∃ cmd argLow argHigh, encode i = cmd :: argLow :: argHigh :: recordOf i ∧
    cmdOpcode cmd = (opcodeOf i).toNat ∧ cmdFields cmd argLow argHigh = fieldsOf i

/-- The opcode of an encoded CMD word. -/
theorem cmdOpcode_encodeCmd (opc : BitVec 8) (f : CmdFields) : cmdOpcode (encodeCmd opc f) = opc.toNat := by
  unfold cmdOpcode encodeCmd
  congr 1
  ext k hk
  simp only [BitVec.getElem_extractLsb', BitVec.getLsbD_append]
  simp [hk, show ¬(24 + k < 16) by omega, show ¬(24 + k - 16 < 4) by omega, show ¬(24 + k - 16 - 4 < 4) by omega,
    show 24 + k - 16 - 4 - 4 = k by omega]

/-- The fields of an encoded CMD word and its two argument words. -/
theorem cmdFields_encodeCmd (opc : BitVec 8) (f : CmdFields) :
    cmdFields (encodeCmd opc f) (f.arg.extractLsb' 0 32) (f.arg.extractLsb' 32 32) = f := by
  obtain ⟨vs, sel, imm, arg⟩ := f
  simp only [cmdFields, encodeCmd, CmdFields.mk.injEq]
  refine ⟨?_, ?_, ?_, ?_⟩
  · ext k hk
    simp only [BitVec.getElem_extractLsb', BitVec.getLsbD_append]
    simp [hk, show ¬(20 + k < 16) by omega, show ¬(20 + k - 16 < 4) by omega, show 20 + k - 16 - 4 = k by omega]
  · ext k hk
    simp only [BitVec.getElem_extractLsb', BitVec.getLsbD_append]
    simp [hk, show ¬(16 + k < 16) by omega, show 16 + k - 16 = k by omega]
  · ext k hk
    simp only [BitVec.getElem_extractLsb', BitVec.getLsbD_append]
    simp [hk]
  · ext k hk
    simp only [BitVec.getElem_append, BitVec.getElem_extractLsb']
    split
    · simpa using BitVec.getLsbD_eq_getElem (x := arg) (i := k) hk
    · simpa [show 32 + (k - 32) = k by omega] using BitVec.getLsbD_eq_getElem (x := arg) (i := k) hk

/-- The words of a command, from its opcode, fields and record. -/
theorem statement_of (i : Instr) : Statement i :=
  ⟨_, _, _, rfl, cmdOpcode_encodeCmd _ _, cmdFields_encodeCmd _ _⟩

theorem nop (f : CmdFields) : Statement (.nop f) := statement_of _
theorem reset (f : CmdFields) : Statement (.reset f) := statement_of _
theorem vsreset (f : CmdFields) : Statement (.vsreset f) := statement_of _
theorem wrreg (f : CmdFields) : Statement (.wrreg f) := statement_of _
theorem rdreg (f : CmdFields) : Statement (.rdreg f) := statement_of _
theorem roi (f : CmdFields) (record : List Word) : Statement (.roi f record) := statement_of _
theorem rdout (f : CmdFields) : Statement (.rdout f) := statement_of _
theorem rddesc (f : CmdFields) : Statement (.rddesc f) := statement_of _
theorem wrmask (f : CmdFields) : Statement (.wrmask f) := statement_of _
theorem rdmask (f : CmdFields) : Statement (.rdmask f) := statement_of _

end Sys2Proof.Laws.OpcodeOfEncoding
end

