-- ==== Sys2Proof/Laws/Stages.lean ====
section
/-! SUPPORT. The stages of the frame pipeline, entry by entry: what each map holds at a pixel inside the frame, so that no
later proof unfolds a grid. The window of a pixel is given by its row and column bounds (46_artifact_filters.md R320). -/

namespace Sys2Proof.Machine

/-! ### Windows (46_artifact_filters.md R320) -/

/-- The places of a window, by their bounds. -/
theorem mem_windowPlaces {n len x y : Nat} :
    y ∈ windowPlaces n len x ↔ y < len ∧ x ≤ y + n / 2 ∧ y + n / 2 < x + n := by
  simp only [windowPlaces, List.mem_map, List.mem_filter, List.mem_range, decide_eq_true_eq]
  constructor
  · rintro ⟨k, ⟨h1, h2, h3⟩, rfl⟩
    omega
  · rintro ⟨h1, h2, h3⟩
    exact ⟨y + n / 2 - x, by omega, by omega⟩

theorem nodup_windowPlaces (n len x : Nat) : (windowPlaces n len x).Nodup := by
  refine List.Nodup.map_on ?_ (List.Nodup.filter _ List.nodup_range)
  intro a ha b hb h
  simp only [List.mem_filter, decide_eq_true_eq] at ha hb
  omega

/-- The pixels of a window, by their bounds. -/
theorem mem_windowPixels {n h w r c : Nat} {q : Nat × Nat} :
    q ∈ windowPixels n h w r c ↔
      (q.1 < h ∧ q.2 < w) ∧ r ≤ q.1 + n / 2 ∧ q.1 + n / 2 < r + n ∧ c ≤ q.2 + n / 2 ∧ q.2 + n / 2 < c + n := by
  simp only [windowPixels, List.mem_flatMap, List.mem_map, mem_windowPlaces]
  constructor
  · rintro ⟨a, ha, b, hb, rfl⟩
    exact ⟨⟨ha.1, hb.1⟩, ha.2.1, ha.2.2, hb.2.1, hb.2.2⟩
  · rintro ⟨⟨h1, h2⟩, h3, h4, h5, h6⟩
    exact ⟨q.1, ⟨h1, h3, h4⟩, q.2, ⟨h2, h5, h6⟩, rfl⟩

theorem nodup_windowPixels (n h w r c : Nat) : (windowPixels n h w r c).Nodup := by
  unfold windowPixels
  rw [List.nodup_flatMap]
  refine ⟨fun x _ => (nodup_windowPlaces n w c).map fun a b hab => by simpa using hab, ?_⟩
  refine (nodup_windowPlaces n h r).imp fun hab => ?_
  simp only [Function.onFun, List.disjoint_left, List.mem_map]
  rintro _ ⟨x, -, rfl⟩ ⟨y, -, h'⟩
  exact hab (congrArg Prod.fst h').symm

/-- How many pixels of a window satisfy `P`. -/
theorem length_filter_windowPixels {n h w r c : Nat} (P : Nat × Nat → Bool) :
    ((windowPixels n h w r c).filter P).length =
      ((Finset.range h ×ˢ Finset.range w).filter fun q =>
        (r ≤ q.1 + n / 2 ∧ q.1 + n / 2 < r + n ∧ c ≤ q.2 + n / 2 ∧ q.2 + n / 2 < c + n) ∧ P q = true).card := by
  rw [← List.toFinset_card_of_nodup ((nodup_windowPixels n h w r c).filter P)]
  congr 1
  ext q
  simp [mem_windowPixels, and_assoc]

/-! ### Entries of the maps -/

section
variable {h w r c : Nat}

/-- A phase map (43_demodulator.md R262). -/
theorem phaseMap_num (x : Grid Taps) (hr : r < h) (hc : c < w) : (phaseMap x h w).num r c = phaseOf (x.taps r c) :=
  Grid.num_build _ hr hc

/-- Both calls of the demodulator (43_demodulator.md R261). -/
theorem demodBoth_read (fr : BinnedFrame) (hr : r < fr.h) (hc : c < fr.w) :
    Grid.read Accum.zero (demodBoth fr) r c =
      demodPixel (demodPixel Accum.zero (fr.x0.taps r c) (fr.nc.num r c)) (fr.x1.taps r c) (fr.nc.num r c) := by
  unfold demodBoth demodFrame
  rw [Grid.read_build _ _ hr hc]
  dsimp only
  rw [Grid.read_build _ _ hr hc]

/-- The filter's sum over the places inside the dimension, in rising order (44_smoother.md R281). -/
theorem firSum_eq_filter (kernel : List NUM) (n x : Nat) (f : Nat → NUM) :
    firSum kernel n x f =
      ((List.range kernel.length).filter fun k =>
        (kernel.length - 1) / 2 ≤ x + k ∧ x + k - (kernel.length - 1) / 2 < n).foldl
        (fun acc k => acc.add ((kernel.getD k NUM.zero).mul (f (x + k - (kernel.length - 1) / 2)))) NUM.zero := by
  rw [List.foldl_filter]
  simp [firSum]

/-- The filter's sum reads its values at the places inside the dimension only (44_smoother.md R281). -/
theorem firSum_congr (kernel : List NUM) {n x : Nat} {f g : Nat → NUM} (hfg : ∀ y < n, f y = g y) :
    firSum kernel n x f = firSum kernel n x g := by
  unfold firSum
  refine List.foldl_ext _ _ _ fun acc k _ => ?_
  split
  · rw [hfg _ (by omega)]
  · rfl

/-- The smoother runs the two passes unless the kernel is longer than the frame (44_smoother.md R280, R281). -/
theorem smooth_tap (kernel : List NUM) (x : Grid Taps) {t : Nat} (hr : r < h) (hc : c < w) (ht : t < 3) :
    ((smooth kernel x h w).taps r c).tap t =
      if h < kernel.length ∨ w < kernel.length then (x.taps r c).tap t
      else firSum kernel h r fun rr => firSum kernel w c fun cc => (x.taps rr cc).tap t := by
  unfold smooth
  split
  · rfl
  · rw [firCols, Grid.taps_build _ hr hc, Taps.tap_build _ ht]
    refine firSum_congr kernel fun rr hrr => ?_
    rw [firRows, Grid.taps_build _ hrr hc, Taps.tap_build _ ht]

/-- The corrected phase (44_smoother.md R283). -/
theorem correctedMap_num (ph sp : Grid NUM) (hr : r < h) (hc : c < w) :
    (correctedMap ph sp h w).num r c = correctPhase (ph.num r c) (sp.num r c) :=
  Grid.num_build _ hr hc

/-- The cycle-index map (45_unwrapper.md R303). -/
theorem cycleMap_read (fd : FrameDesc) (sp0 sp1 : Grid NUM) (hr : r < h) (hc : c < w) :
    Grid.read 0 (cycleMap fd sp0 sp1 h w) r c = cycleIndex fd (sp0.num r c) (sp1.num r c) :=
  Grid.read_build _ _ hr hc

/-- The range map (45_unwrapper.md R304). -/
theorem rangeMap_num (fd : FrameDesc) (cyc : Grid Nat) (sp0 sp1 cp0 cp1 : Grid NUM) (hr : r < h) (hc : c < w) :
    (rangeMap fd cyc sp0 sp1 cp0 cp1 h w).num r c =
      rangeOf fd (Grid.read 0 cyc r c) (signMask (sp0.num r c) (sp1.num r c)) (cp0.num r c) (cp1.num r c) :=
  Grid.num_build _ hr hc

/-- The median map (46_artifact_filters.md R326 to R328). -/
theorem medianFilter_num (p : Params) (fd : FrameDesc) (rng : Grid NUM) (hr : r < h) (hc : c < w) :
    (medianFilter p fd rng h w).num r c =
      match fd.mode with
      | .stripe => medianStripePixel (byBinning p.medWStripe fd.bin.toNat) rng w r c
      | .grid => medianGridPixel (byBinning p.medWGrid fd.bin.toNat) rng h w r c := by
  unfold medianFilter
  cases fd.mode <;> exact Grid.num_build _ hr hc

/-- The nearest-neighbour filter (46_artifact_filters.md R332, R336). -/
theorem nnFilter_num (p : Params) (level : Nat) (rm : Grid NUM) (hr : r < h) (hc : c < w) :
    (nnFilter p level rm h w).num r c =
      if level ≠ 0 ∧ closeCount p (nnRow p level).1 rm h w r c < (nnRow p level).2 then NUM.zero else rm.num r c := by
  unfold nnFilter
  by_cases hl : level = 0
  · simp [hl]
  · rw [if_neg hl, Grid.num_build _ hr hc]
    simp [hl]

/-- The words of an emitted frame (47_quantizer.md R350 to R357). -/
theorem framePipeline_words (p : Params) (ctrl : BitVec 32) (thr : NUM) (ctx : Context)
    (hw : (finalRaw ctx).w ≤ 2 ^ 32) (hr : r < (finalRaw ctx).h) (hc : c < (finalRaw ctx).w) :
    let maps := pipelineMaps p ctrl ctx.fd (finalRaw ctx)
    let a := Grid.read Accum.zero maps.acc r c
    let after := framePipeline p ctrl thr ctx
    Memory.read 0 after.outRange (pixKey r c) =
        rangeWord ctrl thr ctx (maps.rn.num r c) a.snr (Grid.read false maps.ghost r c) r c ∧
      Memory.read 0 after.outSignal (pixKey r c) = quantizeSignal a.sig ∧
      Memory.read 0 after.outBackground (pixKey r c) = quantizeBackground a.bg ∧
      Memory.read 0 after.outSnr (pixKey r c) = quantizeSnr a.snr :=
  ⟨Memory.read_ofPixels_inside _ hw hr hc, Memory.read_ofPixels_inside _ hw hr hc,
    Memory.read_ofPixels_inside _ hw hr hc, Memory.read_ofPixels_inside _ hw hr hc⟩

end

/-! ### The ghost mask (46_artifact_filters.md R321, R322), of a map of integers -/

/-- The largest of converted integers. -/
theorem maxFrom_ofNat (xs : List Nat) (x : Nat) (h : ∀ y ∈ x :: xs, y < 2 ^ 53) :
    maxFrom (NUM.ofNat x) (xs.map NUM.ofNat) = NUM.ofNat (xs.foldl max x) := by
  induction xs generalizing x with
  | nil => rfl
  | cons y ys ih =>
    have hx := h x (by simp)
    have hy := h y (by simp)
    have step := ih (max x y) (by
      simp only [List.mem_cons]
      rintro z (rfl | hz)
      · omega
      · exact h z (by simp [hz]))
    simpa [maxFrom, NUM.max_ofNat hx hy] using step

/-- The smallest of converted integers. -/
theorem minFrom_ofNat (xs : List Nat) (x : Nat) (h : ∀ y ∈ x :: xs, y < 2 ^ 53) :
    minFrom (NUM.ofNat x) (xs.map NUM.ofNat) = NUM.ofNat (xs.foldl min x) := by
  induction xs generalizing x with
  | nil => rfl
  | cons y ys ih =>
    have hx := h x (by simp)
    have hy := h y (by simp)
    have step := ih (min x y) (by
      simp only [List.mem_cons]
      rintro z (rfl | hz)
      · omega
      · exact h z (by simp [hz]))
    simpa [minFrom, NUM.min_ofNat hx hy] using step

theorem foldl_max_spec (xs : List Nat) (x : Nat) :
    xs.foldl max x ∈ x :: xs ∧ ∀ y ∈ x :: xs, y ≤ xs.foldl max x := by
  induction xs generalizing x with
  | nil => simp
  | cons y ys ih =>
    obtain ⟨h1, h2⟩ := ih (max x y)
    have hm := h2 (max x y) (by simp)
    simp only [List.foldl_cons, List.mem_cons] at h1 h2 ⊢
    refine ⟨?_, ?_⟩
    · rcases h1 with h1 | h1
      · rcases max_choice x y with h | h <;> rw [h1] <;> simp [h]
      · exact .inr (.inr h1)
    · rintro z (rfl | rfl | hz)
      · omega
      · omega
      · exact h2 z (.inr hz)

theorem foldl_min_spec (xs : List Nat) (x : Nat) :
    xs.foldl min x ∈ x :: xs ∧ ∀ y ∈ x :: xs, xs.foldl min x ≤ y := by
  induction xs generalizing x with
  | nil => simp
  | cons y ys ih =>
    obtain ⟨h1, h2⟩ := ih (min x y)
    have hm := h2 (min x y) (by simp)
    simp only [List.foldl_cons, List.mem_cons] at h1 h2 ⊢
    refine ⟨?_, ?_⟩
    · rcases h1 with h1 | h1
      · rcases min_choice x y with h | h <;> rw [h1] <;> simp [h]
      · exact .inr (.inr h1)
    · rintro z (rfl | rfl | hz)
      · omega
      · omega
      · exact h2 z (.inr hz)

/-- A window is flagged when its largest and its smallest integer are more than the tolerance apart. -/
theorem spreadExceeds_iff (tol : NUM) (xs : List Nat) (h : ∀ y ∈ xs, y < 2 ^ 53) :
    spreadExceeds tol (xs.map NUM.ofNat) = true ↔
      ∃ hi ∈ xs, ∃ lo ∈ xs, (∀ y ∈ xs, lo ≤ y ∧ y ≤ hi) ∧ tol.lt ((NUM.ofNat hi).sub (NUM.ofNat lo)) = true := by
  cases xs with
  | nil => simp [spreadExceeds]
  | cons x xs =>
    simp only [spreadExceeds, List.map_cons]
    rw [maxFrom_ofNat xs x h, minFrom_ofNat xs x h]
    obtain ⟨a1, a2⟩ := foldl_max_spec xs x
    obtain ⟨b1, b2⟩ := foldl_min_spec xs x
    constructor
    · exact fun ht => ⟨_, a1, _, b1, fun y hy => ⟨b2 y hy, a2 y hy⟩, ht⟩
    · rintro ⟨hi, hhi, lo, hlo, hall, ht⟩
      rwa [← le_antisymm (a2 hi hhi) (hall _ a1).2, ← le_antisymm (hall _ b1).1 (b2 lo hlo)]

/-- Whether the map `g` has, among the pixels of `window` inside the frame, a largest and a smallest value more than `tol`
apart. -/
def SpreadIn (h w : Nat) (tol : NUM) (g : Nat → Nat → Nat) (window : Nat → Nat → Prop) : Prop :=
  ∃ i j i' j', (i < h ∧ j < w ∧ window i j) ∧ (i' < h ∧ j' < w ∧ window i' j') ∧
    (∀ u v, u < h → v < w → window u v → g i' j' ≤ g u v ∧ g u v ≤ g i j) ∧
    tol.lt ((NUM.ofNat (g i j)).sub (NUM.ofNat (g i' j'))) = true

section
variable {h w r c : Nat} (n : Nat) (tol : NUM) (q : Grid NUM) (g : Nat → Nat → Nat)

/-- The forward scan (46_artifact_filters.md R321). -/
theorem ghostScan_iff (hr : r < h) (hc : c < w) (hq : ∀ i j, i < h → j < w → q.num i j = NUM.ofNat (g i j))
    (hg : ∀ i j, g i j < 2 ^ 53) :
    Grid.read false (ghostScan n tol q h w) r c = true ↔
      SpreadIn h w tol g fun i j => r ≤ i + n / 2 ∧ i + n / 2 < r + n ∧ c ≤ j + n / 2 ∧ j + n / 2 < c + n := by
  have values : (windowPixels n h w r c).map (fun p => q.num p.1 p.2) =
      ((windowPixels n h w r c).map fun p => g p.1 p.2).map NUM.ofNat := by
    rw [List.map_map]
    refine List.map_congr_left fun p hp => ?_
    rw [mem_windowPixels] at hp
    exact hq _ _ hp.1.1 hp.1.2
  have bound : ∀ y ∈ (windowPixels n h w r c).map fun p => g p.1 p.2, y < 2 ^ 53 := by
    simp only [List.mem_map]
    rintro _ ⟨p, -, rfl⟩
    exact hg _ _
  rw [ghostScan, Grid.read_build _ _ hr hc, values, spreadExceeds_iff _ _ bound]
  simp only [List.mem_map, mem_windowPixels, SpreadIn]
  constructor
  · rintro ⟨_, ⟨x, hx, rfl⟩, _, ⟨y, hy, rfl⟩, hall, ht⟩
    exact ⟨x.1, x.2, y.1, y.2, ⟨hx.1.1, hx.1.2, hx.2⟩, ⟨hy.1.1, hy.1.2, hy.2⟩,
      fun u v hu hv hwin => hall _ ⟨(u, v), ⟨⟨hu, hv⟩, hwin⟩, rfl⟩, ht⟩
  · rintro ⟨i, j, i', j', h1, h2, hall, ht⟩
    refine ⟨_, ⟨(i, j), ⟨⟨h1.1, h1.2.1⟩, h1.2.2⟩, rfl⟩, _, ⟨(i', j'), ⟨⟨h2.1, h2.2.1⟩, h2.2.2⟩, rfl⟩, ?_, ht⟩
    rintro _ ⟨z, hz, rfl⟩
    exact hall _ _ hz.1.1 hz.1.2 hz.2

/-- The reverse scan, in original coordinates (46_artifact_filters.md R322). -/
theorem ghostReverse_iff (hr : r < h) (hc : c < w) (hq : ∀ i j, i < h → j < w → q.num i j = NUM.ofNat (g i j))
    (hg : ∀ i j, g i j < 2 ^ 53) :
    Grid.read false (ghostReverse n tol q h w) r c = true ↔
      SpreadIn h w tol g fun i j => i ≤ r + n / 2 ∧ r + n / 2 < i + n ∧ j ≤ c + n / 2 ∧ c + n / 2 < j + n := by
  have flipped : ∀ i j, i < h → j < w →
      (flipGrid NUM.zero q h w).num i j = NUM.ofNat (g (h - 1 - i) (w - 1 - j)) := by
    intro i j hi hj
    rw [flipGrid, Grid.num_build _ hi hj]
    exact hq _ _ (by omega) (by omega)
  have back : ∀ {m x : Nat}, x < m → m - 1 - (m - 1 - x) = x := by omega
  rw [ghostReverse, flipGrid, Grid.read_build _ _ hr hc,
    ghostScan_iff n tol (flipGrid NUM.zero q h w) (fun i j => g (h - 1 - i) (w - 1 - j)) (by omega) (by omega) flipped
      fun i j => hg _ _]
  constructor
  · rintro ⟨i, j, i', j', h1, h2, hall, ht⟩
    refine ⟨h - 1 - i, w - 1 - j, h - 1 - i', w - 1 - j', by omega, by omega, fun u v hu hv hwin => ?_, ht⟩
    simpa only [back hu, back hv] using hall (h - 1 - u) (w - 1 - v) (by omega) (by omega) (by omega)
  · rintro ⟨i, j, i', j', h1, h2, hall, ht⟩
    refine ⟨h - 1 - i, w - 1 - j, h - 1 - i', w - 1 - j', by omega, by omega, ?_, ?_⟩
    · intro u v hu hv hwin
      simp only [back h1.1, back h1.2.1, back h2.1, back h2.2.1]
      exact hall _ _ (by omega) (by omega) (by omega)
    · simpa only [back h1.1, back h1.2.1, back h2.1, back h2.2.1] using ht

end

end Sys2Proof.Machine
end

