-- ==== Sys2Proof/Machine/CommandSyntax.lean ====
section
/-! DEFINITION. The textual syntax of command streams (30_encoding.md R125) and its pseudo-instructions (R126): from a
line to a command, and from a text to the words of the CMD stream. It is the host's notation; no step reads it. Where
R125 leaves lexical points open the choice is log entry 15. -/

namespace Sys2Proof.Machine.CommandSyntax

/-! ### Lexing -/

/-- A token of a line. -/
inductive Token where
  | word (chars : List Char)
  | comma
  | equals
  | openBrace
  | closeBrace
  | openBracket
  | closeBracket
deriving DecidableEq, Repr

/-- The one-character tokens. The two braces are the characters 123 and 125. -/
def symbolToken (ch : Char) : Option Token :=
  if ch = ',' then some .comma
  else if ch = '=' then some .equals
  else if ch.toNat = 123 then some .openBrace
  else if ch.toNat = 125 then some .closeBrace
  else if ch = '[' then some .openBracket
  else if ch = ']' then some .closeBracket
  else none

/-- The token of the characters read so far. -/
def wordToken (acc : List Char) : List Token := if acc = [] then [] else [.word acc]

/-- The tokens of a line; `;` starts a comment (30_encoding.md R125). -/
def lexLine : List Char → List Char → List Token
  | [], acc => wordToken acc
  | ch :: rest, acc =>
    if ch = ';' then wordToken acc
    else if ch.isWhitespace then wordToken acc ++ lexLine rest []
    else
      match symbolToken ch with
      | some t => wordToken acc ++ t :: lexLine rest []
      | none => lexLine rest (acc ++ [ch])

/-! ### Numbers -/

/-- The value of a digit, in any base up to 16. -/
def digitValue (ch : Char) : Option Nat :=
  let n := ch.toNat
  if 48 ≤ n ∧ n ≤ 57 then some (n - 48)
  else if 97 ≤ n ∧ n ≤ 102 then some (n - 87)
  else if 65 ≤ n ∧ n ≤ 70 then some (n - 55)
  else none

/-- The number a list of digits stands for, after the digits that make `acc`. -/
def digitsFrom (base : Nat) : Nat → List Char → Option Nat
  | acc, [] => some acc
  | acc, ch :: rest =>
    match digitValue ch with
    | some v => if v < base then digitsFrom base (acc * base + v) rest else none
    | none => none

/-- A nonempty list of digits. -/
def digits (base : Nat) (cs : List Char) : Option Nat := if cs = [] then none else digitsFrom base 0 cs

/-- "Numbers are decimal or `0x` hexadecimal" (30_encoding.md R125). -/
def parseNat : List Char → Option Nat
  | '0' :: 'x' :: cs => digits 16 cs
  | cs => digits 10 cs

/-- A number that fits in `w` bits. -/
def parseBits (w : Nat) (cs : List Char) : Option (BitVec w) :=
  match parseNat cs with
  | some n => if n < 2 ^ w then some (BitVec.ofNat w n) else none
  | none => none

/-- The NUM nearest to `±n * 10^k` (30_encoding.md R125, 00_scope.md R14). -/
def decimalNum (neg : Bool) (n : Nat) (k : Int) : NUM :=
  if n = 0 then NUM.zeroOf neg
  else if 0 ≤ k then NUM.round neg (n * 10 ^ k.toNat) 0
  else
    let d := 10 ^ (-k).toNat
    let j := 56 + d.log2 - n.log2
    NUM.round neg (stickyQuotient n d j) (-(j : Int) - 1)

/-- A decimal exponent: digits, after a sign or none. -/
def parseExponent : List Char → Option Int
  | '-' :: cs => (digits 10 cs).map fun n => -(n : Int)
  | '+' :: cs => (digits 10 cs).map fun n => (n : Int)
  | cs => (digits 10 cs).map fun n => (n : Int)

/-- A decimal real without its sign: digits, a fraction or none, an exponent or none. -/
def parseDecimal (neg : Bool) (cs : List Char) : Option NUM :=
  let isExp := fun ch => ch == 'e' || ch == 'E'
  let mantissa := cs.takeWhile fun ch => !isExp ch
  let exponent := cs.dropWhile fun ch => !isExp ch
  let whole := mantissa.takeWhile (· != '.')
  let fraction := (mantissa.dropWhile (· != '.')).drop 1
  match digits 10 (whole ++ fraction), (if exponent = [] then some 0 else parseExponent (exponent.drop 1)) with
  | some n, some k => some (decimalNum neg n (k - fraction.length))
  | _, _ => none

/-- A binary64 value: `f64:0x` and 16 hexadecimal digits, or a decimal real (30_encoding.md R125). -/
def parseReal : List Char → Option NUM
  | 'f' :: '6' :: '4' :: ':' :: '0' :: 'x' :: cs =>
    if cs.length = 16 then (digits 16 cs).map fun n => ⟨BitVec.ofNat 64 n⟩ else none
  | '-' :: cs => parseDecimal true cs
  | cs => parseDecimal false cs

/-- The value of WRREG: an integer is the 64 bits themselves, a real is its binary64 pattern. -/
def parseValue (cs : List Char) : Option (BitVec 64) :=
  match parseBits 64 cs with
  | some x => some x
  | none => if (parseNat cs).isSome then none else (parseReal cs).map NUM.bits

/-! ### Names -/

/-- The register names of 30_encoding.md R110. -/
def registerNames : List (String × BitVec 16) :=
  [("CTRL", 0x0000), ("SNR_THRESHOLD", 0x0001), ("RANGE_OFFSET", 0x0010), ("RANGE_LIMIT", 0x0011), ("STATUS", 0x0020),
    ("FRAME_COUNT", 0x0021), ("PARAM_NUM_VS", 0x0040), ("PARAM_MAX_ROWS", 0x0041), ("PARAM_MAX_COLS", 0x0042),
    ("PARAM_RAW_BITS", 0x0043)]

/-- The output maps of 30_encoding.md R114. -/
def mapNames : List (String × BitVec 4) := [("RANGE", 0), ("SIGNAL", 1), ("BACKGROUND", 2), ("SNR", 3)]

/-- The descriptor fields of 30_encoding.md R115. -/
def descriptorNames : List (String × BitVec 4) :=
  [("OUT_ROWS", 0), ("OUT_COLS", 1), ("TOP_ROW", 2), ("LEFT_COL", 3), ("ROW_STEP", 4), ("COL_STEP", 5)]

/-- The CTRL fields of 30_encoding.md R111: lowest bit and width. -/
def ctrlFields : List (String × Nat × Nat) :=
  [("STRIPE_WINDOW", 0, 2), ("HDR_ENABLED", 2, 1), ("NN_LEVEL", 3, 3), ("PERFORM_MEDIAN", 6, 1),
    ("PERFORM_MINMAX", 7, 1), ("DISABLE_RANGE_MASKING", 8, 1), ("DISABLE_RANGE_LIMIT", 9, 1)]

/-- The integer header fields of 30_encoding.md R120: word, lowest bit and width. PAYLOAD_LEN is computed. -/
def headerFields : List (String × Nat × Nat × Nat) :=
  [("VSID", 0, 0, 4), ("FIRST_OF_FRAME", 0, 4, 1), ("FRAME_COMPLETED", 0, 5, 1), ("HDR_DISABLED", 0, 6, 1),
    ("PREV_SATURATED", 0, 7, 1), ("STRIPE_MODE", 0, 8, 1), ("TAP_ACCUM", 0, 9, 1), ("NROT", 0, 10, 2),
    ("BINNING", 0, 16, 8), ("START_ROW", 1, 0, 16), ("N_ROWS", 1, 16, 16), ("WIN_ROW0", 2, 0, 16),
    ("WIN_NROWS", 2, 16, 16), ("WIN_COL0", 3, 0, 16), ("WIN_NCOLS", 3, 16, 16), ("N0", 4, 0, 16), ("N1", 4, 16, 16)]

/-- Look a name up. -/
def lookup {α : Type} (table : List (String × α)) (name : List Char) : Option α :=
  (table.find? fun e => e.1.toList == name).map (·.2)

/-- A name of a table, or a number of the width of its values. -/
def nameOrNumber {w : Nat} (table : List (String × BitVec w)) (cs : List Char) : Option (BitVec w) :=
  match lookup table cs with
  | some x => some x
  | none => parseBits w cs

/-! ### Arguments -/

/-- Arguments between commas. A comma after the last one is refused, which R125 does not say (log entry 15). -/
def parseArgs : List Token → Option (List (List Char))
  | [.word w] => some [w]
  | .word w :: .comma :: rest => (parseArgs rest).map (w :: ·)
  | _ => none

/-- `name=value, ...`, and the tokens after it. A comma after the last field is read as nothing, and a list in
braces may be empty, which R125 does not say; a SETCTRL line that names no field is refused by `parseTokens` (log entry
15). -/
def parseFields : List Token → Option (List (List Char × List Char) × List Token)
  | .word n :: .equals :: .word v :: .comma :: rest => (parseFields rest).map fun p => ((n, v) :: p.1, p.2)
  | .word n :: .equals :: .word v :: rest => some ([(n, v)], rest)
  | rest => some ([], rest)

/-- The samples of a payload, up to its closing bracket, which ends the line. A comma after the last sample is read as
nothing, and the list may be empty, which R125 does not say (log entry 15). -/
def parseSamples : List Token → Option (List Word)
  | [.closeBracket] => some []
  | [.word w, .closeBracket] => (parseBits 32 w).map ([·])
  | .word w :: .comma :: rest =>
    match parseBits 32 w, parseSamples rest with
    | some x, some xs => some (x :: xs)
    | _, _ => none
  | _ => none

/-- A CTRL value with the named fields set and every other field 0 (30_encoding.md R126). The values of a field named
twice are or-ed bit by bit, which R126 does not say (log entry 15). -/
def ctrlValue : List (List Char × List Char) → Option Nat
  | [] => some 0
  | (n, v) :: rest =>
    match lookup ctrlFields n, parseNat v, ctrlValue rest with
    | some (lo, width), some x, some y => if x < 2 ^ width then some (y ||| x * 2 ^ lo) else none
    | _, _, _ => none

/-- One header field put into the ten header words it can be in; an unknown name or a value too wide gives none. -/
def setHeaderField (words : List Nat) (n v : List Char) : Option (List Nat) :=
  match lookup headerFields n with
  | some (k, lo, width) =>
    match parseNat v with
    | some x =>
      let old := words.getD k 0
      if x < 2 ^ width then some (words.set k (old - old / 2 ^ lo % 2 ^ width * 2 ^ lo + x * 2 ^ lo)) else none
    | none => none
  | none =>
    let at' := if n = "FREQ0".toList then some 5 else if n = "FREQ1".toList then some 7 else none
    match at', parseReal v with
    | some k, some x => some ((words.set k (x.bits.toNat % 2 ^ 32)).set (k + 1) (x.bits.toNat / 2 ^ 32))
    | _, _ => none

/-- All the named header fields. -/
def setHeaderFields : List Nat → List (List Char × List Char) → Option (List Nat)
  | words, [] => some words
  | words, (n, v) :: rest =>
    match setHeaderField words n v with
    | some words' => setHeaderFields words' rest
    | none => none

/-- The header before any field is named: "header fields left out are 0, except NROT (default 1) and BINNING (default
1)" (30_encoding.md R125). -/
def defaultHeader : List Nat := [2 ^ 10 + 2 ^ 16, 0, 0, 0, 0, 0, 0, 0, 0]

/-- The ROI command of a header and a payload; PAYLOAD_LEN and RECLEN are computed (30_encoding.md R125). -/
def roiInstr (header : List Nat) (payload : List Word) : Instr :=
  let record := header.map (BitVec.ofNat 32) ++ [BitVec.ofNat 32 payload.length, 0, 0] ++ payload
  .roi ⟨0, 0, 0, BitVec.ofNat 64 record.length⟩ record

/-- The part of a ROI line after its mnemonic, with fields that come before the ones it names. -/
def parseRoi (before : List (List Char × List Char)) : List Token → Option Instr
  | .openBrace :: rest =>
    match parseFields rest with
    | some (fields, .closeBrace :: .openBracket :: tail) =>
      match setHeaderFields defaultHeader (before ++ fields), parseSamples tail with
      | some header, some payload => some (roiInstr header payload)
      | _, _ => none
    | _ => none
  | _ => none

/-! ### Lines -/

/-- `reg [, v]` and what follows it. -/
def regOperands (args : List (List Char)) : Option (BitVec 16 × BitVec 4) :=
  match args with
  | [r] => (nameOrNumber registerNames r).map fun x => (x, 0)
  | [r, v] =>
    match nameOrNumber registerNames r, parseBits 4 v with
    | some x, some y => some (x, y)
    | _, _ => none
  | _ => none

/-- A row and a column as ARG (30_encoding.md R101). -/
def pixelArg (row col : List Char) : Option (BitVec 64) :=
  match parseBits 32 row, parseBits 32 col with
  | some r, some c => some (r ++ c)
  | _, _ => none

/-- `reg [, v], value`, with the reader of the value. -/
def parseWrite (value : List Char → Option (BitVec 64)) (args : List (List Char)) : Option Instr :=
  match regOperands args.dropLast, args.getLast?.bind value with
  | some (r, v), some x => some (.wrreg ⟨v, 0, r, x⟩)
  | _, _ => none

/-- A line whose arguments stand between commas (30_encoding.md R125, R126). -/
def parseCommand (mnemonic : String) (args : List (List Char)) : Option Instr :=
  match mnemonic, args with
  | "VSRESET", [v] => (parseBits 4 v).map fun x => .vsreset ⟨x, 0, 0, 0⟩
  | "WRREG", args => parseWrite parseValue args
  | "SETF64", args => parseWrite (fun cs => (parseReal cs).map NUM.bits) args
  | "RDREG", args => (regOperands args).map fun p => .rdreg ⟨p.2, 0, p.1, 0⟩
  | "RDOUT", [v, m, row, col] =>
    match parseBits 4 v, nameOrNumber mapNames m, pixelArg row col with
    | some v, some m, some a => some (.rdout ⟨v, m, 0, a⟩)
    | _, _, _ => none
  | "RDDESC", [v, sel] =>
    match parseBits 4 v, nameOrNumber descriptorNames sel with
    | some v, some k => some (.rddesc ⟨v, k, 0, 0⟩)
    | _, _ => none
  | "WRMASK", [v, row, col, bit] =>
    match parseBits 4 v, pixelArg row col, parseBits 1 bit with
    | some v, some a, some b => some (.wrmask ⟨v, 0, b.setWidth 16, a⟩)
    | _, _, _ => none
  | "RDMASK", [v, row, col] =>
    match parseBits 4 v, pixelArg row col with
    | some v, some a => some (.rdmask ⟨v, 0, 0, a⟩)
    | _, _ => none
  | _, _ => none

/-- The command of a line's tokens (30_encoding.md R125), and of a pseudo-instruction (R126). DESIGN CHOICE (log entry
15): a SETCTRL line that names no field is refused; R126 does not say whether it may name none. -/
def parseTokens : List Token → Option Instr
  | [.word w] =>
    match String.ofList w with
    | "NOP" => some (.nop ⟨0, 0, 0, 0⟩)
    | "RESET" => some (.reset ⟨0, 0, 0, 0⟩)
    | _ => none
  | .word w :: rest =>
    match String.ofList w with
    | "ROI" => parseRoi [] rest
    | "FRAME1" => parseRoi [("FIRST_OF_FRAME".toList, ['1']), ("FRAME_COMPLETED".toList, ['1'])] rest
    | "SETCTRL" =>
      match parseFields rest with
      | some (fields, []) => (ctrlValue fields).map fun x => .wrreg ⟨0, 0, 0x0000, BitVec.ofNat 64 x⟩
      | _ => none
    | m => (parseArgs rest).bind (parseCommand m)
  | _ => none

/-- The words of one line: none for a blank one, and `none` for a line the syntax does not have. -/
def assembleLine (line : List Char) : Option (List Word) :=
  match lexLine line [] with
  | [] => some []
  | tokens => (parseTokens tokens).map encode

/-- The lines of a text. -/
def splitLines : List Char → List Char → List (List Char)
  | [], acc => [acc]
  | ch :: rest, acc => if ch = '\n' then acc :: splitLines rest [] else splitLines rest (acc ++ [ch])

/-- The CMD stream of a text: one command a line (30_encoding.md R125). -/
def assembleLines : List (List Char) → Option (List Word)
  | [] => some []
  | line :: rest =>
    match assembleLine line, assembleLines rest with
    | some ws, some more => some (ws ++ more)
    | _, _ => none

/-- The CMD stream of a text. -/
def assemble (text : String) : Option (List Word) := assembleLines (splitLines text.toList [])

end Sys2Proof.Machine.CommandSyntax
end

