-- ==== Sys2Proof/Tests/Slice0.lean ====
section
/-! SUPPORT. Tests of the model against the spec's own examples, words decoded from the encoding table, terms each
well-formedness check refuses, and for every statement with hypotheses a state and operands that meet them. -/

namespace Sys2Proof.Tests

open Sys2Proof.Machine

/-! ### Helpers -/

/-- A ROI record with the test frequencies, N0 = 4 and N1 = 5 (95_test_vectors.md, section 3). -/
def record (h0 h1 h2 h3 : Word) (payload : List Word) : List Word :=
  h0 :: h1 :: h2 :: h3 :: 0x00050004 :: 0 :: 0x418C9C38 :: 0 :: 0x4191E1A3 :: BitVec.ofNat 32 payload.length :: 0 :: 0
    :: payload

/-- A record of one row and one column. -/
def pixel (h0 : Word) (payload : List Word) : List Word := record h0 0x00010000 0x00010000 0x00010000 payload

/-- The fields of a ROI command with a record of `n` words. -/
def roiFields (n : Nat) : CmdFields := ⟨0, 0, 0, BitVec.ofNat 64 n⟩

/-- The state after one ROI command. -/
def afterRecord (s : State) (r : List Word) : State := roiState (roiFields r.length) r s

/-- The reset state with the context of virtual sensor 0 replaced. -/
def withCtx (c : Context) : State := State.reset.setCtx 0 c

/-- A context that has emitted one frame of one pixel. -/
def emitted : Context :=
  { Context.reset with hasOutput := true, frameCount := 1, desc := ⟨1, 1, 100, 0, 2, 2⟩, outRange := [(0, 3072)] }

/-- Program P1's record (95_test_vectors.md). -/
def p1 : List Word := pixel 0x00010430 [497, 702, 100, 100, 597, 603]

/-- Validates, as a grid ROI. -/
def gridPixel (h0 : Word) : List Word := pixel h0 [1, 2, 3, 4, 5, 6]

/-! ### Well-formedness: each check refuses a term -/

theorem test_wellFormed_refuses_nop : (Instr.nop ⟨1, 0, 0, 0⟩).wellFormed = false ∧
    (Instr.nop ⟨0, 1, 0, 0⟩).wellFormed = false ∧ (Instr.nop ⟨0, 0, 1, 0⟩).wellFormed = false ∧
    (Instr.nop ⟨0, 0, 0, 1⟩).wellFormed = false ∧ (Instr.nop ⟨0, 0, 0, 0⟩).wellFormed = true := by decide
theorem test_wellFormed_refuses_reset : (Instr.reset ⟨1, 0, 0, 0⟩).wellFormed = false ∧
    (Instr.reset ⟨0, 1, 0, 0⟩).wellFormed = false ∧ (Instr.reset ⟨0, 0, 1, 0⟩).wellFormed = false ∧
    (Instr.reset ⟨0, 0, 0, 1⟩).wellFormed = false := by decide
theorem test_wellFormed_refuses_vsreset : (Instr.vsreset ⟨1, 1, 0, 0⟩).wellFormed = false ∧
    (Instr.vsreset ⟨1, 0, 1, 0⟩).wellFormed = false ∧ (Instr.vsreset ⟨1, 0, 0, 1⟩).wellFormed = false := by decide
theorem test_wellFormed_refuses_wrreg : (Instr.wrreg ⟨0, 1, 0, 0⟩).wellFormed = false ∧
    (Instr.wrreg ⟨1, 0, 0x43, 0⟩).wellFormed = false ∧ (Instr.wrreg ⟨1, 0, 0x10, 0⟩).wellFormed = true := by decide
theorem test_wellFormed_refuses_rdreg : (Instr.rdreg ⟨0, 1, 0, 0⟩).wellFormed = false ∧
    (Instr.rdreg ⟨0, 0, 0, 1⟩).wellFormed = false ∧ (Instr.rdreg ⟨1, 0, 1, 0⟩).wellFormed = false := by decide
theorem test_wellFormed_refuses_roi : (Instr.roi ⟨1, 0, 0, 0⟩ []).wellFormed = false ∧
    (Instr.roi ⟨0, 1, 0, 0⟩ []).wellFormed = false ∧ (Instr.roi ⟨0, 0, 1, 0⟩ []).wellFormed = false ∧
    (Instr.roi ⟨0, 0, 0, 0x100000000⟩ []).wellFormed = false ∧ (Instr.roi ⟨0, 0, 0, 1⟩ []).wellFormed = false ∧
    (Instr.roi ⟨0, 0, 0, 1⟩ [5]).wellFormed = true := by decide
theorem test_wellFormed_refuses_readout : (Instr.rdout ⟨0, 0, 1, 0⟩).wellFormed = false ∧
    (Instr.rddesc ⟨0, 0, 1, 0⟩).wellFormed = false ∧ (Instr.rddesc ⟨0, 0, 0, 1⟩).wellFormed = false ∧
    (Instr.wrmask ⟨0, 1, 0, 0⟩).wellFormed = false ∧ (Instr.wrmask ⟨0, 0, 2, 0⟩).wellFormed = false ∧
    (Instr.rdmask ⟨0, 1, 0, 0⟩).wellFormed = false ∧ (Instr.rdmask ⟨0, 0, 1, 0⟩).wellFormed = false := by decide

/-! ### Decoding: words written out from 30_encoding.md R101, R102 and R127 -/

theorem test_decode_nop : decode [0x00000000, 0, 0] = .instr (.nop ⟨0, 0, 0, 0⟩) [] := by decide
theorem test_decode_reset : decode [0x01000000, 0, 0, 9] = .instr (.reset ⟨0, 0, 0, 0⟩) [9] := by decide
theorem test_decode_vsreset : decode [0x02F00000, 0, 0] = .instr (.vsreset ⟨15, 0, 0, 0⟩) [] := by decide
theorem test_decode_wrreg : decode [0x03100010, 0x00000000, 0x3FE00000] =
    .instr (.wrreg ⟨1, 0, 0x0010, 0x3FE0000000000000⟩) [] := by decide
theorem test_decode_rdreg : decode [0x04200021, 0, 0] = .instr (.rdreg ⟨2, 0, 0x0021, 0⟩) [] := by decide
theorem test_decode_roi : decode [0x05000000, 2, 0, 7, 8, 6] = .instr (.roi ⟨0, 0, 0, 2⟩ [7, 8]) [6] ∧
    decode [0x05000000, 2, 0, 7] = .incomplete := by decide
theorem test_decode_rdout : decode [0x06130000, 1, 2] = .instr (.rdout ⟨1, 3, 0, 0x0000000200000001⟩) [] := by decide
theorem test_decode_rddesc : decode [0x07140000, 0, 0] = .instr (.rddesc ⟨1, 4, 0, 0⟩) [] := by decide
theorem test_decode_wrmask : decode [0x08000001, 4, 3] = .instr (.wrmask ⟨0, 0, 1, 0x0000000300000004⟩) [] := by decide
theorem test_decode_rdmask : decode [0x09300000, 4, 3] = .instr (.rdmask ⟨3, 0, 0, 0x0000000300000004⟩) [] := by decide
theorem test_decode_reserved : decode [0x0A000000, 0, 0] = .badOpcode [] ∧ decode [0xFF000000, 0, 0] = .badOpcode [] ∧
    decode [0x00000000, 0] = .incomplete := by decide
theorem test_decodeTableWord : decodeTableWord 32 0x04200021 = some (.rdreg ⟨2, 0, 0x0021, 0⟩) ∧
    decodeTableWord 32 0x05000000 = some (.roi ⟨0, 0, 0, 0⟩ []) ∧
    decodeTableWord 96 0x000000030000000408000001 = some (.wrmask ⟨0, 0, 1, 0x0000000300000004⟩) ∧
    decodeTableWord 32 0x0A000000 = none := by decide
/-- The word placed is the one the next step runs: RDREG PARAM_NUM_VS (30_encoding.md R112). -/
theorem test_withFetchWord : step (State.reset.withFetchWord 32 0x04000040) =
    .next (State.reset.answer 2) := by rfl

/-! ### The commands, on the spec's own examples -/

/-- R150, example. -/
theorem test_nop : (nopState ⟨0, 0, 0, 0⟩ State.reset).resp = some ⟨.ok, .none, 0⟩ := by decide
/-- R151, example: RDREG CTRL after RESET. -/
theorem test_reset : (rdregState ⟨0, 0, 0, 0⟩ (resetState ⟨0, 0, 0, 0⟩ { State.reset with ctrl := 4 })).resp =
    some ⟨.ok, .none, 0⟩ := by decide
/-- R152: FATAL_STICKY is cleared and FRAME_COUNT kept. -/
theorem test_vsreset :
    (((vsresetState ⟨0, 0, 0, 0⟩ (withCtx (emitted.fatal .badNrot))).ctx 0).status = 0x10) ∧
    ((vsresetState ⟨0, 0, 0, 0⟩ (withCtx (emitted.fatal .badNrot))).ctx 0).frameCount = 1 := by decide
/-- R153, examples. -/
theorem test_wrreg_ctrl : (wrregState ⟨0, 0, 0, 0xC⟩ State.reset).ctrl = 0xC ∧
    wrregState ⟨0, 0, 0, 3⟩ State.reset = State.reset.reject .illegalValue := by decide +kernel
/-- 95_test_vectors.md P4: WRREG FRAME_COUNT is READ_ONLY. -/
theorem test_wrreg_readOnly : wrregState ⟨0, 0, 0x21, 5⟩ State.reset = State.reset.reject .readOnly := by decide +kernel
/-- R154, example. -/
theorem test_rdreg : (rdregState ⟨0, 0, 0x11, 0⟩ State.reset).resp = some ⟨.ok, .none, 0x7FF0000000000000⟩ := by decide
/-- 95_test_vectors.md P4: register 0x99 is BAD_REG. -/
theorem test_rdreg_badReg : rdregState ⟨0, 0, 0x99, 0⟩ State.reset = State.reset.reject .badReg := by decide +kernel
/-- 95_test_vectors.md P1: STATUS 0x110 and the four output words. -/
theorem test_roi_P1 :
    let c := (afterRecord State.reset p1).ctx 0
    c.status = 0x110 ∧ c.outRange = [(0, 3072)] ∧ c.outSignal = [(0, 1000)] ∧ c.outBackground = [(0, 200)] ∧
      c.outSnr = [(0, 71)] ∧ c.desc = ⟨1, 1, 0, 0, 1, 1⟩ := by decide +kernel
/-- 95_test_vectors.md, section 2.6: RAW_RANGE leaves STATUS 0x250308. -/
theorem test_roi_rawRange :
    ((afterRecord State.reset (pixel 0x00010430 [1, 2, 3, 4, 5, 65536])).ctx 0).status = 0x250308 := by decide +kernel
/-- R162: the word of the last emitted frame; before the first EMIT there is none. -/
theorem test_rdout : (rdoutState ⟨0, 0, 0, 0⟩ (withCtx emitted)).resp = some ⟨.ok, .none, 3072⟩ ∧
    rdoutState ⟨0, 0, 0, 0⟩ State.reset = State.reset.reject .noOutput := by decide +kernel
/-- R163, example: TOP_ROW 100 and ROW_STEP 2. -/
theorem test_rddesc : (rddescState ⟨0, 2, 0, 0⟩ (withCtx emitted)).resp = some ⟨.ok, .none, 100⟩ ∧
    (rddescState ⟨0, 4, 0, 0⟩ (withCtx emitted)).resp = some ⟨.ok, .none, 2⟩ := by decide
/-- R164 and R165: the written bit reads 0, its neighbour 1. -/
theorem test_wrmask :
    let s := wrmaskState ⟨0, 0, 0, 0⟩ State.reset
    (rdmaskState ⟨0, 0, 0, 0⟩ s).resp = some ⟨.ok, .none, 0⟩ ∧
      (rdmaskState ⟨0, 0, 0, 1⟩ s).resp = some ⟨.ok, .none, 1⟩ := by decide
/-- R165, example, and 95_test_vectors.md P4: row 8 is BAD_INDEX. -/
theorem test_rdmask : (rdmaskState ⟨0, 0, 0, 0x0000000300000004⟩ State.reset).resp = some ⟨.ok, .none, 1⟩ ∧
    rdmaskState ⟨0, 0, 0, 0x0000000800000000⟩ State.reset = State.reset.reject .badIndex := by decide +kernel

/-! ### The stages, on the vectors of 95_test_vectors.md -/

/-- Section 1, S3, and section 2.5. -/
theorem test_rhaz : NUM.rhaz ⟨0xC012000000000000⟩ = -5 ∧ NUM.rhaz ⟨0xC00999999999999A⟩ = -3 ∧
    NUM.rhaz ⟨0x4004000000000000⟩ = 3 ∧ NUM.rhaz ⟨0x3FDFFFFFFFFFFFFF⟩ = 0 ∧
    NUM.rhaz ⟨0xBFE0000000000000⟩ = -1 := by decide +kernel
/-- Section 2.2: proxy (10, 100, 50) is 845 and proxy (3, 7, 3) is 2.6666666666666665. -/
theorem test_proxy : proxy ⟨NUM.ofNat 10, NUM.ofNat 100, NUM.ofNat 50⟩ = ⟨0x408A680000000000⟩ ∧
    proxy ⟨NUM.ofNat 3, NUM.ofNat 7, NUM.ofNat 3⟩ = ⟨0x4005555555555555⟩ := by decide +kernel
/-- Section 1, S1: phase, signal, background and SNR of (10, 100, 50). -/
theorem test_demod : phaseOf ⟨NUM.ofNat 10, NUM.ofNat 100, NUM.ofNat 50⟩ = ⟨0x3FDBE5BE5BE5BE5C⟩ ∧
    demodPixel Accum.zero ⟨NUM.ofNat 10, NUM.ofNat 100, NUM.ofNat 50⟩ NUM.one =
      ⟨NUM.ofNat 130, NUM.ofNat 10, ⟨0x403D11A25CD6ED90⟩⟩ := by decide +kernel
/-- Section 2.4: correct 0.98 with 0.02. -/
theorem test_correct : correctPhase ⟨0x3FEF5C28F5C28F5C⟩ ⟨0x3F947AE147AE147B⟩ = ⟨0xBF947AE147AE1480⟩ := by
  decide +kernel
/-- Section 2.9: 10.5 modulo R_MAX. -/
theorem test_fmod : NUM.fmod ⟨0x4025000000000000⟩ ⟨0x4023FC753C33D48B⟩ = ⟨0x3FE038AC3CC2B750⟩ := by decide +kernel
/-- Section 2.8: the stripe row (1, 9, 1, 1). -/
theorem test_medianStripe :
    (List.range 4).map (medianStripePixel 3 [[NUM.ofNat 1, NUM.ofNat 9, NUM.ofNat 1, NUM.ofNat 1]] 4 0) =
      List.replicate 4 (NUM.ofNat 1) := by decide +kernel

/-! ### The textual syntax (30_encoding.md R125, R126) -/

/-- 95_test_vectors.md P1: the program's line assembles to its CMD, ARG, header and payload. -/
theorem test_assemble_frame1 :
    CommandSyntax.assembleLine
      (("FRAME1 " ++ String.ofList [Char.ofNat 123] ++ " VSID=0, N_ROWS=1, WIN_NROWS=1, WIN_NCOLS=1, N0=4, N1=5, " ++
        "FREQ0=60e6, FREQ1=75e6 " ++ String.ofList [Char.ofNat 125] ++ " [497,702,100, 100,597,603]").toList) =
      some ([0x05000000, 18, 0] ++ p1) := by decide +kernel
/-- 95_test_vectors.md P2 and P3: SETCTRL HDR_ENABLED=1, and RANGE_OFFSET of virtual sensor 1 set to 0.5. -/
theorem test_assemble_writes :
    CommandSyntax.assemble "SETCTRL HDR_ENABLED=1 ; comment\nSETF64 RANGE_OFFSET, 1, 0.5" =
      some [0x03000000, 4, 0, 0x03100010, 0, 0x3FE00000] := by decide +kernel

/-- The points of R125 and R126 that log entry 15 settles: a comma before a closing bracket is read as nothing, one after
the last argument is refused, the values of a CTRL field named twice are or-ed, and a SETCTRL line without a field is
refused. -/
theorem test_assemble_choices :
    CommandSyntax.parseSamples (CommandSyntax.lexLine "1,]".toList []) = some [1] ∧
    CommandSyntax.assembleLine "RDMASK 0, 1, 2,".toList = none ∧
    CommandSyntax.assembleLine "SETCTRL NN_LEVEL=1, NN_LEVEL=2,".toList = some [0x03000000, 0x18, 0] ∧
    CommandSyntax.assembleLine "SETCTRL".toList = none := by decide +kernel

/-! ### Witnesses: a state and operands that meet the hypotheses of each statement, clause by clause -/

theorem witness_DecodeReadsBackEncode : (Instr.roi ⟨0, 0, 0, 2⟩ [7, 8]).recordFits = true ∧
    (Instr.wrmask ⟨15, 15, 0xFFFF, 0xFFFFFFFFFFFFFFFF⟩).recordFits = true := by decide
theorem witness_EncodeRebuildsDecodedWords :
    decode [0x05000000, 2, 0, 7, 8, 6] = .instr (.roi ⟨0, 0, 0, 2⟩ [7, 8]) [6] := by decide
theorem witness_StepRunsDecodedCommand :
    decode ({ State.reset with stream := [0x04000040, 0, 0, 5] } : State).stream =
      .instr (.rdreg ⟨0, 0, 0x40, 0⟩) [5] := by decide
theorem witness_ReservedOpcodeIsRejected :
    ({ State.reset with stream := [0x0A000000, 1, 2, 3] } : State).stream = 0x0A000000#32 :: 1 :: 2 :: [3] ∧
      0x0A ≤ ((0x0A000000#32).extractLsb' 24 8).toNat ∧ 0x0A ≤ ((0xFF000000#32).extractLsb' 24 8).toNat := by decide
theorem witness_EveryStepCompletes : decode State.reset.stream = .incomplete := by decide
theorem witness_ReservedFieldsAreRejected :
    ∀ i ∈ [Instr.nop ⟨1, 0, 0, 0⟩, .reset ⟨0, 1, 0, 0⟩, .vsreset ⟨0, 0, 1, 0⟩, .wrreg ⟨1, 0, 0, 0⟩, .rdreg ⟨0, 0, 0, 1⟩,
      .roi ⟨0, 0, 0, 0x100000000⟩ [], .rdout ⟨0, 0, 1, 0⟩, .rddesc ⟨0, 0, 0, 1⟩, .wrmask ⟨0, 0, 2, 0⟩,
      .rdmask ⟨0, 0, 1, 0⟩], i.fieldsLegal = false := by decide
theorem witness_RejectChangesNoState :
    exec (.nop ⟨1, 0, 0, 0⟩) State.reset = .next (State.reset.reject .reservedField) ∧
      (State.reset.reject .reservedField).resp = some ⟨.reject, .reservedField, 0⟩ := ⟨rfl, rfl⟩
theorem witness_NopAnswersOk : (((0 : BitVec 4) = 0 ∧ (0 : BitVec 4) = 0 ∧ (0 : BitVec 16) = 0 ∧ (0 : BitVec 64) = 0)) ∧
    ¬((0 : BitVec 4) = 0 ∧ (0 : BitVec 4) = 0 ∧ (0 : BitVec 16) = 0 ∧ (1 : BitVec 64) = 0) := by decide
theorem witness_ResetCommandRestoresPowerOn :
    (let f : CmdFields := ⟨0, 0, 0, 0⟩; f.vs = 0 ∧ f.sel = 0 ∧ f.imm = 0 ∧ f.arg = 0) ∧
    ¬(let f : CmdFields := ⟨0, 0, 1, 0⟩; f.vs = 0 ∧ f.sel = 0 ∧ f.imm = 0 ∧ f.arg = 0) := by decide
theorem witness_ResetValues : (let f : CmdFields := ⟨0, 0, 0, 0⟩; f.vs = 0 ∧ f.sel = 0 ∧ f.imm = 0 ∧ f.arg = 0) ∧
    Context.reset ∈ (State.powerOn Config.resetParams 1).ctxs := by decide
/-- VS 2 is the first that does not exist, VS 1 the last that does. -/
theorem witness_VsresetRestartsContext :
    (let f : CmdFields := ⟨1, 1, 0, 0⟩; ¬(f.sel = 0 ∧ f.imm = 0 ∧ f.arg = 0)) ∧
    (let f : CmdFields := ⟨2, 0, 0, 0⟩; f.sel = 0 ∧ f.imm = 0 ∧ f.arg = 0 ∧ State.reset.ctxs.length ≤ f.vs.toNat) ∧
    (let f : CmdFields := ⟨1, 0, 0, 0⟩;
      f.sel = 0 ∧ f.imm = 0 ∧ f.arg = 0 ∧ State.reset.ctxs[f.vs.toNat]? = some Context.reset) := by decide
/-- Each clause of WRREG at a boundary: register numbers next to the map's, VS 1 and 2, the largest legal CTRL and the
values next to it, the largest finite NUM, infinity and the first NaN pattern. -/
theorem witness_WrregWritesRegister :
    (1 : BitVec 4) ≠ 0 ∧
    (∀ r ∈ [0x02, 0x12, 0x22, 0x3F, 0x44, 0xFFFF],
      ¬(r = 0x00 ∨ r = 0x01 ∨ r = 0x40 ∨ r = 0x41 ∨ r = 0x42 ∨ r = 0x43) ∧
        ¬(r = 0x10 ∨ r = 0x11 ∨ r = 0x20 ∨ r = 0x21)) ∧
    State.reset.ctxs.length ≤ (2 : BitVec 4).toNat ∧ State.reset.ctxs[(1 : BitVec 4).toNat]? = some Context.reset ∧
    (let x : BitVec 64 := 0x3EE; x.toNat / 2 ^ 10 = 0 ∧ x.toNat % 4 ≠ 3 ∧ x.toNat / 8 % 8 ≤ 5) ∧
    (∀ x ∈ [0x400, 0x3, 0x30], ¬(x / 2 ^ 10 = 0 ∧ x % 4 ≠ 3 ∧ x / 8 % 8 ≤ 5)) ∧
    NUM.isNaN ⟨0x7FF0000000000000⟩ = false ∧ NUM.isNaN ⟨0x7FF0000000000001⟩ = true ∧
    NUM.isFinite ⟨0x7FEFFFFFFFFFFFFF⟩ = true ∧ NUM.isFinite ⟨0x7FF0000000000000⟩ = false := by decide +kernel
theorem witness_RdregReadsRegister :
    (let f : CmdFields := ⟨0, 0, 0, 1⟩; ¬(f.sel = 0 ∧ f.arg = 0)) ∧
    (let f : CmdFields := ⟨2, 0, 0x21, 0⟩; f.sel = 0 ∧ f.arg = 0 ∧ State.reset.ctxs.length ≤ f.vs.toNat) ∧
    (let f : CmdFields := ⟨0, 0, 0x43, 0⟩; f.sel = 0 ∧ f.arg = 0 ∧ f.vs = 0 ∧ f.imm.toNat = 0x43) ∧
    (let f : CmdFields := ⟨1, 0, 0x21, 0⟩;
      f.sel = 0 ∧ f.arg = 0 ∧ f.imm.toNat = 0x21 ∧ State.reset.ctxs[f.vs.toNat]? = some Context.reset) := by decide
theorem witness_RdoutReadsOutputWord :
    (1 : BitVec 16) ≠ 0 ∧ (withCtx emitted).ctxs.length ≤ (2 : BitVec 4).toNat ∧
    (withCtx emitted).ctxs[(0 : BitVec 4).toNat]? = some emitted ∧ 3 < (4 : BitVec 4).toNat ∧ (3 : BitVec 4).toNat ≤ 3 ∧
    Context.reset.hasOutput = false ∧ emitted.hasOutput = true ∧
    (emitted.desc.outRows.toNat ≤ (0x100000000 : BitVec 64).toNat / 2 ^ 32 ∨
      emitted.desc.outCols.toNat ≤ (0x100000000 : BitVec 64).toNat % 2 ^ 32) ∧
    (0 : BitVec 64).toNat / 2 ^ 32 < emitted.desc.outRows.toNat ∧
    (0 : BitVec 64).toNat % 2 ^ 32 < emitted.desc.outCols.toNat := by decide
theorem witness_RddescReadsDescriptorField :
    (let f : CmdFields := ⟨0, 0, 0, 1⟩; ¬(f.imm = 0 ∧ f.arg = 0)) ∧ (withCtx emitted).ctxs.length ≤ (2 : BitVec 4).toNat ∧
    (withCtx emitted).ctxs[(0 : BitVec 4).toNat]? = some emitted ∧ 5 < (6 : BitVec 4).toNat ∧ (5 : BitVec 4).toNat ≤ 5 ∧
    Context.reset.hasOutput = false ∧ emitted.hasOutput = true := by decide
/-- Row 8 is the first outside the mask, pixel (7, 7) the last inside. -/
theorem witness_WrmaskWritesOneBit :
    (let f : CmdFields := ⟨0, 0, 2, 0⟩; ¬(f.sel = 0 ∧ f.imm.toNat / 2 = 0)) ∧
    (let f : CmdFields := ⟨2, 0, 1, 0⟩; f.sel = 0 ∧ f.imm.toNat / 2 = 0 ∧ State.reset.ctxs.length ≤ f.vs.toNat) ∧
    (let f : CmdFields := ⟨1, 0, 1, 0x0000000800000000⟩;
      f.sel = 0 ∧ f.imm.toNat / 2 = 0 ∧ f.vs.toNat < State.reset.ctxs.length ∧
        (State.reset.params.maxRows.val ≤ f.arg.toNat / 2 ^ 32 ∨
          State.reset.params.maxCols.val ≤ f.arg.toNat % 2 ^ 32)) ∧
    (let f : CmdFields := ⟨1, 0, 0, 0x0000000700000007⟩;
      f.sel = 0 ∧ f.imm.toNat / 2 = 0 ∧ State.reset.ctxs[f.vs.toNat]? = some Context.reset ∧
        Context.reset.memoryCanonical = true ∧ f.arg.toNat / 2 ^ 32 < State.reset.params.maxRows.val ∧
        f.arg.toNat % 2 ^ 32 < State.reset.params.maxCols.val) := by decide
theorem witness_RdmaskReadsOneBit :
    (let f : CmdFields := ⟨0, 0, 1, 0⟩; ¬(f.sel = 0 ∧ f.imm = 0)) ∧
    (let f : CmdFields := ⟨2, 0, 0, 0⟩; f.sel = 0 ∧ f.imm = 0 ∧ State.reset.ctxs.length ≤ f.vs.toNat) ∧
    (let f : CmdFields := ⟨1, 0, 0, 0x0000000000000008⟩;
      f.sel = 0 ∧ f.imm = 0 ∧ State.reset.ctxs[f.vs.toNat]? = some Context.reset ∧
        (State.reset.params.maxRows.val ≤ f.arg.toNat / 2 ^ 32 ∨
          State.reset.params.maxCols.val ≤ f.arg.toNat % 2 ^ 32)) ∧
    (let f : CmdFields := ⟨1, 0, 0, 0x0000000700000007⟩;
      f.arg.toNat / 2 ^ 32 < State.reset.params.maxRows.val ∧ f.arg.toNat % 2 ^ 32 < State.reset.params.maxCols.val) := by
  decide

/-- The checks 3 to 9 of 40_commands.md R157 on a record: reserved bits, NROT, BINNING, geometry, frequencies, length,
samples. -/
def checks (p : Params) (record : List Word) : List Bool :=
  let w := fun k => record.getD k 0
  let nrot := ((w 0).extractLsb' 10 2).toNat
  let b := ((w 0).extractLsb' 16 8).toNat
  let nRows := (w 1).toNat / 2 ^ 16
  let winNrows := (w 2).toNat / 2 ^ 16
  let winNcols := (w 3).toNat / 2 ^ 16
  [decide ((w 0).extractLsb' 12 4 = 0 ∧ (w 0).extractLsb' 24 8 = 0 ∧ w 10 = 0 ∧ w 11 = 0), decide (nrot ≠ 0),
    decide (b ≠ 0),
    decide (1 ≤ nRows ∧ 1 ≤ winNrows ∧ winNrows ≤ p.maxRows.val ∧ 1 ≤ winNcols ∧ winNcols ≤ p.maxCols.val ∧
      (w 2).toNat % 2 ^ 16 ≤ (w 1).toNat % 2 ^ 16 ∧
      (w 1).toNat % 2 ^ 16 + nRows ≤ (w 2).toNat % 2 ^ 16 + winNrows ∧ 1 ≤ winNcols / b ∧
      ((w 0).getLsbD 8 = false → 1 ≤ winNrows / b)),
    decide (1 ≤ (w 4).toNat % 2 ^ 16 ∧ (w 4).toNat / 2 ^ 16 = (w 4).toNat % 2 ^ 16 + 1 ∧
      NUM.isFinite ⟨w 6 ++ w 5⟩ = true ∧ NUM.one.le ⟨w 6 ++ w 5⟩ = true ∧ NUM.isFinite ⟨w 8 ++ w 7⟩ = true ∧
      NUM.lt ⟨w 6 ++ w 5⟩ ⟨w 8 ++ w 7⟩ = true),
    decide ((w 9).toNat = 6 * nrot * nRows * winNcols ∧ record.length = 12 + (w 9).toNat),
    (record.drop 12).all fun x => decide (x.toNat < 2 ^ p.rawBits.val)]

/-- A record that fails each step of validation first, and one that passes: 11 words, VSID 2, a reserved bit, NROT 0,
BINNING 0, a start row outside the window, FREQ1 = FREQ0, a missing sample, a sample of 65536 (95_test_vectors.md,
section 2.6). -/
theorem witness_ValidationStepsInOrder :
    (p1.take 11).length < 12 ∧ 12 ≤ p1.length ∧ 2 ≤ (((pixel 0x00010432 []).getD 0 0).extractLsb' 0 4).toNat ∧
    ((p1.getD 0 0).extractLsb' 0 4).toNat < 2 := by decide +kernel
/-- A sample of a valid record: frequency 1, tap 2 is the last of its six. -/
theorem witness_ValidationSample :
    let f := 1
    let t := 2
    f < 2 ∧ 0 < ((p1.getD 0 0).extractLsb' 10 2).toNat ∧ 0 < (p1.getD 1 0).toNat / 2 ^ 16 ∧
    0 < (p1.getD 3 0).toNat / 2 ^ 16 ∧ t < 3 ∧ (p1.getD (12 + ((((f * 1 + 0) * 1 + 0) * 1 + 0) * 3 + t)) 0).toNat = 603 := by
  decide
theorem witness_ValidationStep3 :
    (checks Config.resetParams (gridPixel 0x00011430)).take 1 = [false] := by decide +kernel
theorem witness_ValidationStep4 :
    (checks Config.resetParams (gridPixel 0x00010030)).take 2 = [true, false] := by decide +kernel
theorem witness_ValidationStep5 :
    (checks Config.resetParams (gridPixel 0x00000430)).take 3 = [true, true, false] := by decide +kernel
theorem witness_ValidationStep6 :
    (checks Config.resetParams (record 0x00010430 0x00010001 0x00010000 0x00010000 [1, 2, 3, 4, 5, 6])).take 4 =
      [true, true, true, false] := by decide +kernel
theorem witness_ValidationStep7 :
    (checks Config.resetParams ((gridPixel 0x00010430).set 8 0x418C9C38)).take 5 =
      [true, true, true, true, false] := by decide +kernel
theorem witness_ValidationStep8 :
    (checks Config.resetParams (pixel 0x00010430 [1, 2, 3, 4, 5])).take 6 =
      [true, true, true, true, true, false] := by decide +kernel
theorem witness_ValidationStep9 :
    checks Config.resetParams (pixel 0x00010430 [1, 2, 3, 4, 5, 65536]) =
      [true, true, true, true, true, true, false] ∧
    checks Config.resetParams (pixel 0x00010430 [1, 2, 3, 4, 5, 65535]) =
      [true, true, true, true, true, true, true] := by decide +kernel
theorem witness_MalformedRoiAnswersFatal :
    roiFieldsLegal (roiFields 11) = true ∧
    validate State.reset.params State.reset.ctxs.length (p1.take 11) = .unattributed .badLength ∧
    validate State.reset.params State.reset.ctxs.length (gridPixel 0x00010432) = .unattributed .badVsid ∧
    validate State.reset.params State.reset.ctxs.length (gridPixel 0x00010031) = .malformed 1 .badNrot ∧
    State.reset.ctxs[1]? = some Context.reset := by decide +kernel
theorem witness_FatalEffect :
    State.reset.inv = true ∧
    exec (.roi (roiFields 11) (p1.take 11)) State.reset = .next (afterRecord State.reset (p1.take 11)) ∧
    (afterRecord State.reset (p1.take 11)).resp = some ⟨.fatal, .badLength, 0⟩ ∧
    exec (.roi (roiFields 18) (gridPixel 0x00010031)) State.reset =
      .next (afterRecord State.reset (gridPixel 0x00010031)) ∧
    (afterRecord State.reset (gridPixel 0x00010031)).resp = some ⟨.fatal, .badNrot, 0⟩ :=
  ⟨by decide +kernel, rfl, by decide +kernel, rfl, by decide +kernel⟩
theorem witness_SkipEffect :
    exec (.roi (roiFields 18) (gridPixel 0x00010400)) State.reset =
      .next (afterRecord State.reset (gridPixel 0x00010400)) ∧
    (afterRecord State.reset (gridPixel 0x00010400)).resp = some ⟨.skip, .noFirstRoi, 0⟩ :=
  ⟨rfl, by decide +kernel⟩

/-- HDR on, and virtual sensor 0 holding a stripe ROI. -/
def holding : State :=
  { withCtx { Context.reset with hdrPrev := some (roiOf (gridPixel 0x00010510)) } with ctrl := 4 }

theorem witness_HdrRoiIsStored :
    let r := gridPixel 0x00010510
    roiFieldsLegal (roiFields 18) = true ∧ validate holding.params holding.ctxs.length r = .valid 0 (roiOf r) ∧
    holding.ctrl.getLsbD 2 = true ∧ (roiOf r).header.hdrDisabled = false ∧ (roiOf r).header.mode = .stripe ∧
    Context.reset.hdrPrev = none ∧
    ({ Context.reset with hdrCorrected := true } : Context).hdrCorrected = true ∧
    ({ State.reset with ctrl := 4 } : State).ctxs[0]? = some Context.reset := by decide +kernel
/-- No retake, a retake of the same shape, and a retake of another START_ROW. -/
theorem witness_HeldRoiIsReleased :
    let plain := gridPixel 0x00010500
    let retake := gridPixel 0x00010580
    let moved := record 0x00010580 0x00010001 0x00020000 0x00010000 [1, 2, 3, 4, 5, 6]
    let held := roiOf (gridPixel 0x00010510)
    roiFieldsLegal (roiFields 18) = true ∧
    validate holding.params holding.ctxs.length plain = .valid 0 (roiOf plain) ∧
    validate holding.params holding.ctxs.length retake = .valid 0 (roiOf retake) ∧
    validate holding.params holding.ctxs.length moved = .valid 0 (roiOf moved) ∧
    holding.ctxs[0]? = some { Context.reset with hdrPrev := some held } ∧
    holding.ctrl.getLsbD 2 = true ∧
    (∀ r ∈ [plain, retake, moved], (roiOf r).header.hdrDisabled = false ∧ (roiOf r).header.mode = .stripe) ∧
    (roiOf plain).header.prevSaturated = false ∧ (roiOf retake).header.prevSaturated = true ∧
    (roiOf retake).header.nRows = held.header.nRows ∧ (roiOf retake).header.winNcols = held.header.winNcols ∧
    (roiOf retake).header.nrot = held.header.nrot ∧ (roiOf retake).header.startRow = held.header.startRow ∧
    (roiOf retake).header.tapAccum = held.header.tapAccum ∧ (roiOf moved).header.prevSaturated = true ∧
    (roiOf moved).header.startRow ≠ held.header.startRow := by decide +kernel

/-- An open grid frame, or an open stripe frame, of one pixel. -/
def opened (h0 : Word) : Context := openFrame Context.reset (headerOf (gridPixel h0))

/-- What a ROI must share with the open frame it joins (42_frame_assembler.md R221), but for N_ROWS. -/
abbrev joins (c : Context) (h : RoiHeader) : Prop :=
  c.frameOpen = true ∧ c.fd.mode = h.mode ∧ h.binning = c.fd.bin ∧ h.winRow0 = c.fd.winRow0 ∧
  h.winNrows = c.fd.winNrows ∧ h.winCol0 = c.fd.winCol0 ∧ h.winNcols = c.fd.winNcols ∧ h.n0 = c.fd.n0 ∧
  h.n1 = c.fd.n1 ∧ h.freq0.bits = c.fd.f0.bits ∧ h.freq1.bits = c.fd.f1.bits

/-- 42_frame_assembler.md R221: any one of the fields that differs breaks the match (N_ROWS in stripe mode only), and
START_ROW, NROT, TAP_ACCUM, HDR_DISABLED and PREV_SATURATED do not. -/
theorem test_frameMatch_reads_each_field :
    let g := headerOf (gridPixel 0x00010410)
    let h := headerOf (gridPixel 0x00010510)
    (∀ other ∈ [g, { h with binning := 2 }, { h with winRow0 := 1 }, { h with winNrows := 2 }, { h with winCol0 := 1 },
        { h with winNcols := 2 }, { h with n0 := 5 }, { h with n1 := 6 }, { h with freq0 := ⟨1⟩ },
        { h with freq1 := ⟨1⟩ }, { h with nRows := 2 }], frameMatch (frameDescOf h) other = false) ∧
    (∀ other ∈ [h, { h with startRow := 1 }, { h with nrot := 2 }, { h with tapAccum := true },
        { h with hdrDisabled := true }, { h with prevSaturated := true }], frameMatch (frameDescOf h) other = true) ∧
    frameMatch (frameDescOf g) { g with nRows := 2 } = true := by decide +kernel

/-- A first ROI that completes its frame, and a last ROI that joins the open one. -/
theorem witness_GridRoiIsAssembled :
    let first := gridPixel 0x00010430
    let last := gridPixel 0x00010420
    roiFieldsLegal (roiFields 18) = true ∧
    validate State.reset.params State.reset.ctxs.length first = .valid 0 (roiOf first) ∧
    State.reset.ctxs[0]? = some Context.reset ∧ (roiOf first).header.mode = .grid ∧
    (roiOf first).header.firstOfFrame = true ∧
    validate State.reset.params (withCtx (opened 0x00010410)).ctxs.length last = .valid 0 (roiOf last) ∧
    (withCtx (opened 0x00010410)).ctxs[0]? = some (opened 0x00010410) ∧ (roiOf last).header.mode = .grid ∧
    joins (opened 0x00010410) (roiOf last).header := by
  decide +kernel
/-- A first stripe; a frame that holds 8 stripes, which is MAX_ROWS, and one that holds 7; HDR off by CTRL, and by the ROI
itself. -/
theorem witness_StripeRoiIsAssembled :
    let first := gridPixel 0x00010530
    let last := gridPixel 0x00010520
    let unmerged := gridPixel 0x00010560
    let full := { opened 0x00010510 with stripeCount := 8 }
    let room := { opened 0x00010510 with stripeCount := 7 }
    roiFieldsLegal (roiFields 18) = true ∧
    validate State.reset.params State.reset.ctxs.length last = .valid 0 (roiOf last) ∧
    validate holding.params holding.ctxs.length unmerged = .valid 0 (roiOf unmerged) ∧
    validate State.reset.params State.reset.ctxs.length first = .valid 0 (roiOf first) ∧
    (withCtx full).ctxs[0]? = some full ∧ (withCtx room).ctxs[0]? = some room ∧
    (∀ r ∈ [first, last, unmerged], (roiOf r).header.mode = .stripe) ∧ (roiOf first).header.firstOfFrame = true ∧
    State.reset.ctrl.getLsbD 2 = false ∧ holding.ctrl.getLsbD 2 = true ∧ (roiOf unmerged).header.hdrDisabled = true ∧
    (∀ r ∈ [last, unmerged], joins full (roiOf r).header ∧ joins room (roiOf r).header ∧
      (roiOf r).header.nRows = full.fd.sNrows) ∧ State.reset.params.maxRows.val ≤ full.stripeCount ∧
    room.stripeCount < State.reset.params.maxRows.val := by decide +kernel
/-- No frame open; a ROI of another window, which is a grid ROI while HDR is on; a stripe of two rows for a frame of
one-row stripes, while HDR is off; and a stripe that turns HDR off itself. -/
theorem witness_UnmatchedRoiIsNotAssembled :
    let middle := gridPixel 0x00010400
    let last := gridPixel 0x00010420
    let wider := record 0x00010420 0x00010000 0x00020000 0x00010000 [1, 2, 3, 4, 5, 6]
    let taller := record 0x00010520 0x00020000 0x00020000 0x00010000 [1, 2, 3, 4, 5, 6, 7, 8, 9, 10, 11, 12]
    let unmerged := gridPixel 0x00010560
    let grid := opened 0x00010410
    let stripe := openFrame Context.reset (headerOf (record 0x00010510 0x00010000 0x00020000 0x00010000 []))
    roiFieldsLegal (roiFields 18) = true ∧
    validate State.reset.params State.reset.ctxs.length middle = .valid 0 (roiOf middle) ∧
    validate State.reset.params State.reset.ctxs.length last = .valid 0 (roiOf last) ∧
    validate holding.params holding.ctxs.length wider = .valid 0 (roiOf wider) ∧
    validate State.reset.params State.reset.ctxs.length taller = .valid 0 (roiOf taller) ∧
    validate holding.params holding.ctxs.length unmerged = .valid 0 (roiOf unmerged) ∧
    State.reset.ctxs[0]? = some Context.reset ∧ State.reset.ctrl.getLsbD 2 = false ∧ holding.ctrl.getLsbD 2 = true ∧
    (roiOf unmerged).header.hdrDisabled = true ∧ (roiOf wider).header.mode = .grid ∧
    (∀ r ∈ [middle, last, wider, taller, unmerged], (roiOf r).header.firstOfFrame = false) ∧
    (roiOf middle).header.frameCompleted = false ∧ (roiOf last).header.frameCompleted = true ∧
    Context.reset.frameOpen = false ∧ (withCtx grid).ctxs[0]? = some grid ∧ (withCtx stripe).ctxs[0]? = some stripe ∧
    grid.frameOpen = true ∧ (roiOf wider).header.winNrows ≠ grid.fd.winNrows ∧
    joins stripe (roiOf taller).header ∧ (roiOf taller).header.mode = .stripe ∧
    (roiOf taller).header.nRows ≠ stripe.fd.sNrows ∧ ¬joins stripe (roiOf unmerged).header := by decide +kernel

/-- A retake of the same shape with another payload, and one with another START_ROW. -/
theorem witness_RetakeMergesPerPixel :
    let p := roiOf (gridPixel 0x00010510)
    let roi := roiOf (gridPixel 0x00010580)
    let moved := roiOf (record 0x00010580 0x00010001 0x00020000 0x00010000 [1, 2, 3, 4, 5, 6])
    p.payload.length = 2 * p.header.rotations * p.header.rows * p.header.cols * 3 ∧ p.header.rotations ≠ 0 ∧
    roi.header.nRows = p.header.nRows ∧ roi.header.winNcols = p.header.winNcols ∧ roi.header.nrot = p.header.nrot ∧
    roi.header.startRow = p.header.startRow ∧ roi.header.tapAccum = p.header.tapAccum ∧
    moved.header.startRow ≠ p.header.startRow ∧ 0 < p.header.rows ∧ 0 < p.header.cols := by decide +kernel
theorem witness_HdrDelayLineCounts :
    let a := roiOf (gridPixel 0x00010510)
    let retake := roiOf (gridPixel 0x00010580)
    Context.reset.hdrPrev = none ∧ (4 : BitVec 32).getLsbD 2 = true ∧ a.header.prevSaturated = false ∧
    (∀ r ∈ [a, retake], r.header.hdrDisabled = false ∧ r.header.mode = .stripe) ∧ retake.header.prevSaturated = true ∧
    retake.header.nRows = a.header.nRows ∧ retake.header.winNcols = a.header.winNcols ∧
    retake.header.nrot = a.header.nrot ∧ retake.header.startRow = a.header.startRow ∧
    retake.header.tapAccum = a.header.tapAccum := by decide +kernel
theorem witness_DerotationSumsCopiesExactly :
    let roi := roiOf (gridPixel 0x00010610)
    roi.header.rotations ≠ 0 ∧ 0 < roi.header.rows ∧ 0 < roi.header.cols ∧ roi.header.tapAccum = true := by
  decide +kernel
/-- A pixel that is voted in over -infinity, and one whose equal proxy is not. -/
theorem witness_GridVoteKeepsLargerProxy :
    let e := derotate (roiOf (gridPixel 0x00010410))
    let q := (proxy (e.tap0.taps 0 0)).add (proxy (e.tap1.taps 0 0))
    (opened 0x00010410).memoryCanonical = true ∧ 0 < e.header.rows ∧ 0 < (opened 0x00010410).fd.winNcols.toNat ∧
    (Memory.read NUM.negInf (opened 0x00010410).vote (pixKey 0 0)).lt q = true ∧
    (Memory.read NUM.negInf (gridAccumulate (opened 0x00010410) e).vote (pixKey 0 0)).lt q = false := by decide +kernel

/-- A window of three rows and one column with these rows active. -/
def activeRows (rows : Memory Bool) : Context :=
  { Context.reset with fd := { FrameDesc.reset with winNrows := 3, winNcols := 1, bin := 1 }, active := rows }

/-- Row 1 active; both neighbours active; only the upper; only the lower; none. -/
theorem witness_RowFillUsesActiveNeighbours :
    1 < (activeRows []).fd.winNrows.toNat ∧ 0 < (activeRows []).fd.winNcols.toNat ∧
    Memory.read false (activeRows [(1, true)]).active 1 = true ∧
    (∀ rows ∈ [[(0, true), (2, true)], [(0, true)], [(2, true)], []],
      Memory.read false (activeRows rows).active 1 = false) ∧
    Memory.read false (activeRows [(0, true), (2, true)]).active 0 = true ∧
    Memory.read false (activeRows [(0, true), (2, true)]).active 2 = true ∧
    Memory.read false (activeRows [(0, true)]).active 2 = false ∧
    Memory.read false (activeRows [(2, true)]).active 0 = false := by decide
theorem witness_GridBinningSumsBlocks :
    0 < (activeRows []).fd.winNrows.toNat / (activeRows []).fd.bin.toNat ∧
    0 < (activeRows []).fd.winNcols.toNat / (activeRows []).fd.bin.toNat ∧ (activeRows []).fd.bin.toNat = 1 ∧
    ((Grid.taps [[⟨NUM.one, NUM.one, NUM.one⟩]] 0 0).tap 0).isNaN = false ∧
    (Grid.taps [[⟨NUM.one, NUM.one, NUM.one⟩]] 0 0).tap 0 ≠ ⟨0x8000000000000000⟩ := by decide
theorem witness_StripeBecomesNextRow :
    let e := derotate (roiOf (gridPixel 0x00010510))
    let full := { opened 0x00010510 with stripeCount := 8 }
    full.memoryCanonical = true ∧ e.header.winNcols = full.fd.winNcols ∧
    Config.resetParams.maxRows.val ≤ full.stripeCount ∧
    (opened 0x00010510).stripeCount < Config.resetParams.maxRows.val ∧
    0 < full.fd.winNcols.toNat / full.fd.bin.toNat := by decide +kernel
/-- CTRL with each of the three stripe windows. -/
theorem witness_StripeBecomesNextRow_windows :
    (0 : BitVec 32).toNat % 4 = 0 ∧ (1 : BitVec 32).toNat % 4 = 1 ∧ (2 : BitVec 32).toNat % 4 = 2 := by decide
theorem witness_ClassifyPicksHighestMinimum : NUM.one.isNaN = false ∧ NUM.two.isNaN = false ∧
    (classify ⟨NUM.one, NUM.two, NUM.two⟩).m = 0 ∧ (classify ⟨NUM.two, NUM.one, NUM.two⟩).m = 1 ∧
    (classify ⟨NUM.one, NUM.one, NUM.one⟩).m = 2 := by decide
theorem witness_SkippedSmootherChangesNoPhase :
    (2 < Config.resetParams.kernel0.length ∨ 3 < Config.resetParams.kernel0.length) ∧
    ((phaseMap [[Taps.zero]] 1 1).num 0 0).isFinite = true := by decide +kernel
theorem witness_CycleIndexIsWrapped : 1 ≤ ({ FrameDesc.reset with n0 := 1, n1 := 2 } : FrameDesc).n0.toNat := by decide
theorem witness_OddGhostWindowIsSymmetric : 3 % 2 = 1 ∧ 1 % 2 = 1 := by decide
/-- A corner pixel of a window of 3 has three neighbours; level 5 needs five, and a table may need none. -/
theorem witness_NnFilterZeroesLonelyPixels :
    Config.resetParams.nnTable[5 - 1]? = some (3, 5) ∧
    ((Finset.range 3 ×ˢ Finset.range 3).filter fun q =>
      q ≠ (0, 0) ∧ 0 ≤ q.1 + 1 ∧ q.1 + 1 < 0 + 3 ∧ 0 ≤ q.2 + 1 ∧ q.2 + 1 < 0 + 3).card < 5 ∧
    ({ Config.resetParams with nnTable := [(3, 0)] } : Params).nnTable[1 - 1]? = some (3, 0) ∧ 5 ≠ 0 ∧ 0 < 3 := by decide
/-- With masking on, an invalid pixel (its mask bit is 0) and a valid one. -/
theorem witness_QuantizerWritesWholeMaps :
    let masked : Context := { Context.reset with pmask := [(0, false)] }
    1 ≤ 65535 ∧ (0 : BitVec 32).getLsbD 8 = false ∧ Memory.read true masked.pmask (pixKey 0 0) = false ∧
    Memory.read true Context.reset.pmask (pixKey 0 0) = true ∧ (0x100 : BitVec 32).getLsbD 8 = true := by decide
theorem witness_FramePipelineEmits :
    (opened 0x00010410).fd.mode = .grid ∧ (opened 0x00010510).fd.mode = .stripe := by decide +kernel
/-- A grid frame and a stripe frame of one pixel, the first with a pixel that the mask makes invalid and, masking
disabled, a valid one. -/
theorem witness_EmittedWordsFollowDemodulator :
    let grid := { opened 0x00010410 with pmask := [(0, false)] }
    let stripe := { opened 0x00010510 with stripeCount := 1 }
    0 < (finalRaw grid).h ∧ 0 < (finalRaw grid).w ∧ grid.fd.mode = .grid ∧ 0 < (finalRaw stripe).h ∧
    0 < (finalRaw stripe).w ∧ stripe.fd.mode = .stripe ∧ 1 ≤ grid.fd.n0.toNat ∧ (0 : BitVec 32).getLsbD 8 = false ∧
    Memory.read true grid.pmask (pixKey 0 0) = false ∧ (0x100 : BitVec 32).getLsbD 8 = true := by decide +kernel
theorem witness_RhazRoundsHalfAway : NUM.half.isFinite = true ∧ NUM.isFinite ⟨0x7FEFFFFFFFFFFFFF⟩ = true := by decide
theorem witness_NumClipFmodAreExact : (2 : Nat) ^ 53 ≤ 2 ^ 53 ∧ NUM.zero.isFinite = true ∧ NUM.half.isFinite = true ∧
    NUM.zero.le NUM.zero = true ∧ NUM.zero.lt NUM.half = true := by decide

/-- The value of 1.0. -/
theorem toRat_one : NUM.one.toRat = 1 := by
  have h : NUM.one.unpack = .fin false 4503599627370496 (-52) := by decide
  norm_num [NUM.toRat, h]

/-- A value of magnitude at most 2 is in range. -/
theorem inRange_small {v : ℝ} (hv : |v| ≤ 2) : NUM.InRange v := by
  have h : (1 : ℝ) ≤ 2 ^ 970 := one_le_pow₀ (by norm_num)
  unfold NUM.InRange
  generalize (2 : ℝ) ^ 970 = x at h ⊢
  norm_num
  linarith

theorem witness_AddSubMulCorrectlyRounded : NUM.one.isFinite = true ∧
    NUM.InRange (NUM.one.toRat + NUM.one.toRat) ∧ NUM.InRange (NUM.one.toRat - NUM.one.toRat) ∧
    NUM.InRange (NUM.one.toRat * NUM.one.toRat) := by
  refine ⟨by decide, ?_, ?_, ?_⟩ <;> (apply inRange_small; norm_num [toRat_one])
theorem witness_DivSqrtCorrectlyRounded : NUM.one.isFinite = true ∧ NUM.one.toRat ≠ 0 ∧
    NUM.InRange (NUM.one.toRat / NUM.one.toRat) ∧ 0 ≤ NUM.one.toRat := by
  refine ⟨by decide, ?_, ?_, ?_⟩ <;> first | (apply inRange_small; norm_num [toRat_one]) | norm_num [toRat_one]
theorem witness_MedianIsMiddleOfSorted :
    [NUM.one, NUM.two, NUM.zero].length % 2 = 1 ∧ ∀ x ∈ [NUM.one, NUM.two, NUM.zero], x.isNaN = false := by decide
theorem witness_OtherSensorsUntouched :
    exec (.vsreset ⟨0, 0, 0, 0⟩) State.reset = .next (vsresetState ⟨0, 0, 0, 0⟩ State.reset) ∧
    addressed (.vsreset ⟨0, 0, 0, 0⟩) ≠ some 1 ∧ ∀ f, Instr.vsreset ⟨0, 0, 0, 0⟩ ≠ .reset f :=
  ⟨rfl, by decide, fun f => by simp⟩
theorem witness_CommandsForDifferentSensorsCommute :
    let f0 : CmdFields := ⟨0, 0, 0x10, 0x3FF0000000000000⟩
    let f1 : CmdFields := ⟨1, 0, 0, 0⟩
    addressed (.wrreg f0) = some 0 ∧ addressed (.vsreset f1) = some 1 ∧ 0 ≠ 1 ∧
    exec (.wrreg f0) State.reset = .next (wrregState f0 State.reset) ∧
    exec (.vsreset f1) (wrregState f0 State.reset) = .next (vsresetState f1 (wrregState f0 State.reset)) ∧
    exec (.vsreset f1) State.reset = .next (vsresetState f1 State.reset) ∧
    exec (.wrreg f0) (vsresetState f1 State.reset) = .next (wrregState f0 (vsresetState f1 State.reset)) :=
  ⟨by decide, by decide, by decide, rfl, rfl, rfl, rfl⟩
/-- A set bit that a NOP keeps, and a clear one that a ROI with a bad header sets. -/
theorem witness_FatalStickyIsSticky :
    let s := withCtx (Context.reset.fatal .badNrot)
    let bad := gridPixel 0x00010030
    exec (.nop ⟨0, 0, 0, 0⟩) s = .next (nopState ⟨0, 0, 0, 0⟩ s) ∧
    s.ctxs[0]? = some (Context.reset.fatal .badNrot) ∧
    (nopState ⟨0, 0, 0, 0⟩ s).ctxs[0]? = some (Context.reset.fatal .badNrot) ∧
    exec (.roi (roiFields 18) bad) State.reset = .next (afterRecord State.reset bad) ∧
    State.reset.ctxs[0]? = some Context.reset ∧
    (afterRecord State.reset bad).ctxs[0]? = some (Context.reset.fatal .badNrot) ∧ 12 ≤ bad.length ∧
    addressed (.roi (roiFields 18) bad) = some 0 ∧
    (afterRecord State.reset bad).resp = some ⟨.fatal, .badNrot, 0⟩ :=
  ⟨rfl, by decide +kernel, by decide +kernel, rfl, by decide, by decide +kernel, by decide, by decide,
    by decide +kernel⟩
theorem witness_OutputsChangeOnlyOnEmit :
    exec (.roi (roiFields 18) p1) State.reset = .next (afterRecord State.reset p1) ∧
    State.reset.ctxs[0]? = some Context.reset ∧
    (afterRecord State.reset p1).ctxs[0]? = some ((afterRecord State.reset p1).ctx 0) ∧
    ∀ f, Instr.roi (roiFields 18) p1 ≠ .reset f :=
  ⟨rfl, by decide, State.getElem?_of_lt (by decide +kernel), fun f => by simp⟩
theorem witness_ReadsHaveNoSideEffect (f : CmdFields) :
    let i : Instr := .rdmask f
    i = .rdreg f ∨ i = .rdout f ∨ i = .rddesc f ∨ i = .rdmask f := by simp
theorem witness_WritesAreIdempotent : State.reset.memoryCanonical = true ∧
    exec (.wrmask ⟨0, 0, 0, 0⟩) State.reset = .next (wrmaskState ⟨0, 0, 0, 0⟩ State.reset) :=
  ⟨by decide, rfl⟩
theorem witness_RegisterReadSeesWrite :
    exec (.wrreg ⟨1, 0, 0x11, 5⟩) State.reset = .next (wrregState ⟨1, 0, 0x11, 5⟩ State.reset) ∧
    (wrregState ⟨1, 0, 0x11, 5⟩ State.reset).resp = some ⟨.ok, .none, 0⟩ := ⟨rfl, by decide +kernel⟩
theorem witness_StepKeepsMemoryCanonical :
    let s := State.reset.withFetchWord 96 0x000000030000000408000000
    s.memoryCanonical = true ∧ step s = .next (wrmaskState ⟨0, 0, 0, 0x0000000300000004⟩ State.reset) :=
  ⟨by decide, rfl⟩
theorem witness_StepKeepsInvariant :
    let s := State.reset.withFetchWord 96 0x000000030000000408000000
    s.inv = true ∧ step s = .next (wrmaskState ⟨0, 0, 0, 0x0000000300000004⟩ State.reset) :=
  ⟨by decide +kernel, rfl⟩
/-- The parameters of `State.reset` are inside the legal ranges of 00_scope.md R9. -/
theorem test_resetParams_legal : Config.resetParams.legal = true := by decide +kernel

end Sys2Proof.Tests
end

section
/-! SUPPORT. The bit pattern of a finite NUM as a sign and a magnitude pattern, and the exact value the pattern has
(00_scope.md R14). The value of a magnitude pattern rises with the pattern, which is what every later proof rests on. -/

namespace Sys2Proof

/-- The value, in units of the smallest magnitude 2^-1074, of the magnitude pattern `n` (exponent and fraction field).
It goes on past the pattern of +infinity, as if there were no largest exponent. -/
def patternUnits (n : Nat) : Nat := (n - (n / 2 ^ 52 - 1) * 2 ^ 52) * 2 ^ (n / 2 ^ 52 - 1)

/-- A magnitude pattern is an exponent `q` above the smallest and a significand `t`, with its leading bit unless
`q = 0`. -/
theorem exists_exponent_significand (n : Nat) :
    ∃ q t, n = q * 2 ^ 52 + t ∧ t < 2 ^ 53 ∧ (q = 0 ∨ 2 ^ 52 ≤ t) :=
  ⟨n / 2 ^ 52 - 1, n - (n / 2 ^ 52 - 1) * 2 ^ 52, by omega, by omega, by omega⟩

/-- A significand of 2^53, where rounding carried out of the 53 bits, is included. -/
theorem patternUnits_of_significand {q t : Nat} (ht : t ≤ 2 ^ 53) (hq : q = 0 ∨ 2 ^ 52 ≤ t) :
    patternUnits (q * 2 ^ 52 + t) = t * 2 ^ q := by
  unfold patternUnits
  rcases Nat.lt_or_ge t (2 ^ 53) with hlt | hge
  · have hexp : (q * 2 ^ 52 + t) / 2 ^ 52 - 1 = q := by omega
    rw [hexp, Nat.add_sub_cancel_left]
  · have hexp : (q * 2 ^ 52 + t) / 2 ^ 52 - 1 = q + 1 := by omega
    have hfrac : q * 2 ^ 52 + t - (q + 1) * 2 ^ 52 = 2 ^ 52 := by omega
    rw [hexp, hfrac, show t = 2 ^ 52 * 2 by omega, Nat.pow_succ]
    ring

theorem patternUnits_strictMono : StrictMono patternUnits := by
  refine strictMono_nat_of_lt_succ fun n => ?_
  obtain ⟨q, t, rfl, ht, hq⟩ := exists_exponent_significand n
  rw [patternUnits_of_significand ht.le hq, Nat.add_assoc, patternUnits_of_significand ht (by omega)]
  exact Nat.mul_lt_mul_of_pos_right t.lt_succ_self (by positivity)

@[simp] theorem patternUnits_zero : patternUnits 0 = 0 := rfl

/-- The smallest positive magnitude, the unit of `patternUnits`. -/
def unitValue : ℚ := 2 ^ (-1074 : Int)

theorem unitValue_pos : 0 < unitValue := zpow_pos two_pos _

theorem zpow_sub_1074 (q : Nat) : (2 : ℚ) ^ ((q : Int) - 1074) = 2 ^ q * unitValue := by
  rw [unitValue, ← zpow_natCast, ← zpow_add₀ two_ne_zero, sub_eq_add_neg]

theorem pow_mul_unitValue {q : Nat} {e : Int} (h : e = q - 1074) : (2 : ℝ) ^ q * (unitValue : ℝ) = 2 ^ e := by
  rw [unitValue, Rat.cast_zpow, Rat.cast_ofNat, ← zpow_natCast, ← zpow_add₀ two_ne_zero, h, sub_eq_add_neg]

theorem unitValue_real_pos : (0 : ℝ) < unitValue := by exact_mod_cast unitValue_pos

/-- The sign of a value, as a factor. -/
def signFactor (neg : Bool) : ℚ := if neg then -1 else 1

theorem abs_signFactor_mul (neg : Bool) (v : ℚ) : |signFactor neg * v| = |v| := by
  cases neg <;> simp [signFactor]

@[simp] theorem signFactor_false : signFactor false = 1 := rfl

theorem signFactor_mul (a b : Bool) : signFactor a * signFactor b = signFactor (a != b) := by
  cases a <;> cases b <;> simp [signFactor]

theorem signFactor_div (a b : Bool) : signFactor a / signFactor b = signFactor (a != b) := by
  cases a <;> cases b <;> norm_num [signFactor]

theorem signFactor_mul_nonneg_iff {neg : Bool} {v : ℚ} (hv : 0 < v) : 0 ≤ signFactor neg * v ↔ neg = false := by
  cases neg <;> simp [signFactor, hv, hv.le]

/-- The sign bit of a NUM. -/
def NUM.negative (x : NUM) : Bool := x.bits.toNat / 2 ^ 63 == 1

/-- The magnitude pattern of a NUM: its bits without the sign. -/
def NUM.magnitude (x : NUM) : Nat := x.bits.toNat % 2 ^ 63

theorem NUM.isFinite_iff_magnitude {x : NUM} : x.isFinite = true ↔ x.magnitude < 0x7FF0000000000000 := by
  simp [NUM.isFinite, NUM.magnitude]

theorem NUM.toRat_of_unpack {x : NUM} {neg : Bool} {m : Nat} {e : Int} (h : x.unpack = .fin neg m e) :
    x.toRat = signFactor neg * (m * 2 ^ e) := by
  simp only [NUM.toRat, h, signFactor, mul_assoc]

/-- A finite pattern unpacks to its sign, its significand and its exponent. -/
theorem NUM.unpack_eq_of_isFinite {x : NUM} (h : x.isFinite = true) :
    x.unpack = .fin x.negative (x.magnitude - (x.magnitude / 2 ^ 52 - 1) * 2 ^ 52)
      (((x.magnitude / 2 ^ 52 - 1 : Nat) : Int) - 1074) := by
  rw [NUM.isFinite_iff_magnitude] at h
  have hx : x.bits.toNat < 2 ^ 64 := x.bits.isLt
  unfold NUM.unpack
  unfold NUM.magnitude NUM.negative at *
  simp only []
  split
  next hmax => omega
  split
  next hzero => congr 1 <;> omega
  next hpos => congr 1 <;> omega

theorem NUM.toRat_of_isFinite {x : NUM} (h : x.isFinite = true) :
    x.toRat = signFactor x.negative * (patternUnits x.magnitude * unitValue) := by
  rw [NUM.toRat_of_unpack (NUM.unpack_eq_of_isFinite h), patternUnits, zpow_sub_1074]
  push_cast
  ring

/-- What the bits of a signed magnitude pattern say. -/
theorem NUM.signed_bits (neg : Bool) {n : Nat} (hn : n < 2 ^ 63) :
    (NUM.signed neg n).magnitude = n ∧ (NUM.signed neg n).negative = neg ∧
      (NUM.signed neg n).bits.getLsbD 0 = decide (n % 2 = 1) := by
  have hlt : (if neg then 2 ^ 63 + n else n) < 2 ^ 64 := by split <;> omega
  simp only [NUM.magnitude, NUM.negative, NUM.signed, BitVec.toNat_ofNat, Nat.mod_eq_of_lt hlt,
    BitVec.getLsbD, Nat.testBit_zero]
  cases neg
  · exact ⟨by simp; omega, by simp; omega, by simp⟩
  · exact ⟨by simp; omega, by simp; omega, by simp; omega⟩

theorem NUM.signed_isFinite {neg : Bool} {n : Nat} (hn : n < 0x7FF0000000000000) :
    (NUM.signed neg n).isFinite = true := by
  rw [NUM.isFinite_iff_magnitude, (NUM.signed_bits neg (by omega)).1]
  exact hn

theorem NUM.toRat_signed {neg : Bool} {n : Nat} (hn : n < 0x7FF0000000000000) :
    (NUM.signed neg n).toRat = signFactor neg * (patternUnits n * unitValue) := by
  obtain ⟨hmag, hneg, -⟩ := NUM.signed_bits neg (n := n) (by omega)
  rw [NUM.toRat_of_isFinite (NUM.signed_isFinite hn), hmag, hneg]

/-- A NUM unpacked into sign, significand and exponent, with its exact value. -/
theorem NUM.exists_unpack {x : NUM} (hx : x.isFinite = true) :
    ∃ neg m e, x.unpack = .fin neg m e ∧ m < 2 ^ 53 ∧ -1074 ≤ e ∧ e ≤ 971 ∧
      x.toRat = signFactor neg * (m * 2 ^ e) := by
  obtain ⟨neg, m, e, hu, hm, he, he', -⟩ := NUM.unpack_of_isFinite hx
  exact ⟨neg, m, e, hu, hm, he, he', NUM.toRat_of_unpack hu⟩

/-- A value that is at least 0 has no sign bit, unless it is a zero. -/
theorem NUM.sign_of_nonneg {x : NUM} {neg : Bool} {m : Nat} {e : Int} (hv : x.toRat = signFactor neg * (m * 2 ^ e))
    (hpos : 0 ≤ x.toRat) : neg = false ∨ m = 0 := by
  by_cases hm : m = 0
  · exact .inr hm
  have hmag : (0 : ℚ) < m * 2 ^ e := mul_pos (by exact_mod_cast Nat.pos_of_ne_zero hm) (zpow_pos two_pos e)
  exact .inl ((signFactor_mul_nonneg_iff hmag).mp (hv ▸ hpos))

/-- Counting a value in a smaller unit does not change it. -/
theorem unitsOf_cast (neg : Bool) (m : Nat) {e e' : Int} (h : e' ≤ e) :
    (unitsOf neg m e e' : ℚ) * 2 ^ e' = signFactor neg * (m * 2 ^ e) := by
  have hpow : (2 : ℚ) ^ (e - e').toNat * 2 ^ e' = 2 ^ e := by
    rw [← zpow_natCast, ← zpow_add₀ two_ne_zero]
    congr 1
    omega
  rw [← hpow, unitsOf, signFactor]
  cases neg <;> simp [mul_assoc]

end Sys2Proof
end

section
/-! SUPPORT. Rounding to nearest, ties to even (00_scope.md R14): the pattern that `NUM.round` delivers is the nearest
one to the exact result, for every result that its two arguments stand for. -/

namespace Sys2Proof

/-- Of two values, the lower is the nearer when `v` is below their middle. -/
theorem abs_sub_le_abs_sub_iff {x y : ℝ} (h : x < y) (v : ℝ) :
    (|x - v| ≤ |y - v| ↔ 2 * v ≤ x + y) ∧ (|y - v| ≤ |x - v| ↔ x + y ≤ 2 * v) := by
  have hfac : (y - v) ^ 2 - (x - v) ^ 2 = (y - x) * (x + y - 2 * v) := by ring
  have hfac' : (x - v) ^ 2 - (y - v) ^ 2 = (y - x) * (2 * v - (x + y)) := by ring
  constructor
  · rw [← sq_le_sq, ← sub_nonneg, hfac, mul_nonneg_iff_of_pos_left (sub_pos.mpr h), sub_nonneg]
  · rw [← sq_le_sq, ← sub_nonneg, hfac', mul_nonneg_iff_of_pos_left (sub_pos.mpr h), sub_nonneg]

/-- `r` indexes the one of the rising values `val` that is nearest to `v`, of two as near the even one (00_scope.md
R14): `a` and `a + 1` are the indices of the values around `v`. -/
def NearestEven (val : Nat → ℝ) (v : ℝ) (r : Nat) : Prop :=
  ∃ a, val a ≤ v ∧ v < val (a + 1) ∧
    (r = a ∧ (2 * v < val a + val (a + 1) ∨ 2 * v = val a + val (a + 1) ∧ a % 2 = 0) ∨
      r = a + 1 ∧ (val a + val (a + 1) < 2 * v ∨ 2 * v = val a + val (a + 1) ∧ a % 2 = 1))

/-- A value is the nearest to itself. -/
theorem NearestEven.self {val : Nat → ℝ} (hval : StrictMono val) (r : Nat) : NearestEven val (val r) r := by
  have hnext := hval r.lt_succ_self
  exact ⟨r, le_rfl, hnext, .inl ⟨rfl, .inl (by linarith)⟩⟩

/-- `v` is on the nearest value's side of the middle between it and any other, or at the middle when the index is
even. -/
theorem NearestEven.middle {val : Nat → ℝ} {v : ℝ} {r : Nat} (hval : StrictMono val) (h : NearestEven val v r)
    (k : Nat) :
    (k < r → val k + val r ≤ 2 * v ∧ (val k + val r = 2 * v → r % 2 = 0)) ∧
      (r < k → 2 * v ≤ val r + val k ∧ (val r + val k = 2 * v → r % 2 = 0)) := by
  obtain ⟨a, hlo, hhi, ⟨rfl, hmid⟩ | ⟨rfl, hmid⟩⟩ := h
  · refine ⟨fun hk => ?_, fun hk => ?_⟩
    · have := hval hk
      exact ⟨by linarith, fun _ => by linarith⟩
    · have := hval.monotone (Nat.succ_le_of_lt hk)
      rcases hmid with hlt | ⟨heq, heven⟩
      · exact ⟨by linarith, fun _ => by linarith⟩
      · exact ⟨by linarith, fun _ => heven⟩
  · refine ⟨fun hk => ?_, fun hk => ?_⟩
    · have := hval.monotone (Nat.le_of_lt_succ hk)
      rcases hmid with hlt | ⟨heq, hodd⟩
      · exact ⟨by linarith, fun _ => by linarith⟩
      · exact ⟨by linarith, fun _ => by omega⟩
    · have := hval hk
      exact ⟨by linarith, fun _ => by linarith⟩

/-- No value is nearer than the one `NearestEven` indexes, and another one as near makes the index even. -/
theorem NearestEven.le {val : Nat → ℝ} {v : ℝ} {r : Nat} (hval : StrictMono val) (h : NearestEven val v r) (k : Nat) :
    |val r - v| ≤ |val k - v| ∧ (|val k - v| ≤ |val r - v| → k ≠ r → r % 2 = 0) := by
  obtain ⟨hbelow, habove⟩ := h.middle hval k
  rcases Nat.lt_trichotomy k r with hk | rfl | hk
  · obtain ⟨hle, heven⟩ := hbelow hk
    obtain ⟨hlow, hhigh⟩ := abs_sub_le_abs_sub_iff (hval hk) v
    exact ⟨hhigh.mpr hle, fun hge _ => heven (le_antisymm hle (hlow.mp hge))⟩
  · exact ⟨le_rfl, fun _ hne => absurd rfl hne⟩
  · obtain ⟨hle, heven⟩ := habove hk
    obtain ⟨hlow, hhigh⟩ := abs_sub_le_abs_sub_iff (hval hk) v
    exact ⟨hlow.mpr hle, fun hge _ => heven (le_antisymm (hhigh.mp hge) hle)⟩

/-- Rounding to an integer significand `t` is rounding to the magnitude pattern of `t` and the exponent `q`, when the
rounded value has the 53 bits of a significand. -/
theorem NearestEven.pattern {y : ℝ} {q t : Nat} (h : NearestEven (fun n => n) y t) (hy : y < 2 ^ 53)
    (hq : q = 0 ∨ 2 ^ 52 ≤ y) : NearestEven (fun n => patternUnits n) (y * 2 ^ q) (q * 2 ^ 52 + t) := by
  obtain ⟨a, hlo, hhi, hcase⟩ := h
  simp only at hlo hhi
  have ha : a < 2 ^ 53 := by exact_mod_cast hlo.trans_lt hy
  have hqa : q = 0 ∨ 2 ^ 52 ≤ a := hq.imp_right fun hy' => Nat.le_of_lt_succ (by exact_mod_cast hy'.trans_lt hhi)
  have hval : (patternUnits (q * 2 ^ 52 + a) : ℝ) = a * 2 ^ q := by
    exact_mod_cast patternUnits_of_significand ha.le hqa
  have hval' : (patternUnits (q * 2 ^ 52 + a + 1) : ℝ) = (a + 1 : ℕ) * 2 ^ q := by
    rw [Nat.add_assoc, patternUnits_of_significand ha (by omega), Nat.cast_mul, Nat.cast_pow, Nat.cast_ofNat]
  have hpow : (0 : ℝ) < 2 ^ q := by positivity
  refine ⟨q * 2 ^ 52 + a, ?_⟩
  simp only [hval, hval', ← add_mul, ← mul_assoc, mul_le_mul_iff_left₀ hpow, mul_lt_mul_iff_left₀ hpow,
    mul_left_inj' hpow.ne']
  refine ⟨hlo, hhi, hcase.imp (fun ⟨hr, hmid⟩ => ⟨by omega, ?_⟩) (fun ⟨hr, hmid⟩ => ⟨by omega, ?_⟩)⟩
  · exact hmid.imp_right fun ⟨htie, hpar⟩ => ⟨htie, by omega⟩
  · exact hmid.imp_right fun ⟨htie, hpar⟩ => ⟨htie, by omega⟩

/-- `m * 2^e` stands for the value `v` that is to be rounded: it is `v`, or `m` has its last bit set for what is left
over below it, two bits or more past the 53 of the result. -/
def StandsFor (m : Nat) (e : Int) (v : ℝ) : Prop :=
  v = m * 2 ^ e ∨ m % 2 = 1 ∧ 2 ^ 54 ≤ m ∧ (m - 1) * 2 ^ e < v ∧ v < (m + 1) * 2 ^ e

/-- `v` and what stands for it lie on the same side of every even multiple of the unit, and of every multiple when the
one is the other. -/
theorem StandsFor.compare {m : Nat} {e : Int} {v : ℝ} (h : StandsFor m e v) {c : Nat}
    (hc : 2 ^ 54 ≤ m → c % 2 = 0) : (c * 2 ^ e ≤ v ↔ c ≤ m) ∧ (v ≤ c * 2 ^ e ↔ m ≤ c) := by
  have hpow : (0 : ℝ) < 2 ^ e := zpow_pos two_pos e
  rcases h with rfl | ⟨hodd, hbig, hlo, hhi⟩
  · simp only [mul_le_mul_iff_left₀ hpow, Nat.cast_le, and_self]
  have heven := hc hbig
  constructor
  · constructor
    · intro hcv
      have hlt : (c : ℝ) < m + 1 := lt_of_mul_lt_mul_right (hcv.trans_lt hhi) hpow.le
      exact Nat.le_of_lt_succ (by exact_mod_cast hlt)
    · intro hcm
      have hle : (c : ℝ) + 1 ≤ m := by exact_mod_cast (by omega : c + 1 ≤ m)
      exact (mul_le_mul_of_nonneg_right (by linarith) hpow.le).trans hlo.le
  · constructor
    · intro hvc
      have hlt : (m : ℝ) - 1 < c := lt_of_mul_lt_mul_right (hlo.trans_le hvc) hpow.le
      have hlt' : (m : ℝ) < c + 1 := by linarith
      exact Nat.le_of_lt_succ (by exact_mod_cast hlt')
    · intro hmc
      have hle : (m : ℝ) + 1 ≤ c := by exact_mod_cast (by omega : m + 1 ≤ c)
      exact hhi.le.trans (mul_le_mul_of_nonneg_right hle hpow.le)

/-- Rounding off the low `k` bits compares what is rounded with whole and half units of the last place kept. -/
theorem StandsFor.compare_half {m k : Nat} {e : Int} {v : ℝ} (h : StandsFor m e v) (hk : 1 ≤ k)
    (hk' : 2 ^ 54 ≤ m → 2 ≤ k) (c : Nat) :
    ((c : ℝ) ≤ 2 * (v / 2 ^ (e + k)) ↔ c * 2 ^ (k - 1) ≤ m) ∧
      (2 * (v / 2 ^ (e + k)) ≤ c ↔ m ≤ c * 2 ^ (k - 1)) := by
  have hpow : (0 : ℝ) < 2 ^ (e + k) := zpow_pos two_pos _
  have heven : 2 ^ 54 ≤ m → c * 2 ^ (k - 1) % 2 = 0 := fun hm => by
    have hk2 := hk' hm
    rw [show k - 1 = k - 2 + 1 by omega, pow_succ, ← mul_assoc, Nat.mul_mod_left]
  have hscale : ((c * 2 ^ (k - 1) : ℕ) : ℝ) * 2 ^ e = c * 2 ^ (e + k) / 2 := by
    have hsplit : (2 : ℝ) ^ (e + k) = 2 ^ e * 2 ^ (k - 1) * 2 := by
      rw [mul_assoc, ← pow_succ, Nat.sub_add_cancel hk, zpow_add₀ two_ne_zero, zpow_natCast]
    rw [hsplit]
    push_cast
    ring
  obtain ⟨hle, hge⟩ := h.compare heven
  rw [← hle, ← hge, hscale, ← mul_div_assoc]
  constructor
  · rw [le_div_iff₀ hpow, div_le_iff₀ two_pos, mul_comm 2]
  · rw [div_le_iff₀ hpow, le_div_iff₀ two_pos, mul_comm 2]

/-- `roundShift` in half units of the place kept: `m` lies in the unit from `t` to `t + 1`, below, at or above its
middle. -/
theorem roundShift_cases (m : Nat) {k : Nat} (hk : 1 ≤ k) :
    ∃ t, 2 * t * 2 ^ (k - 1) ≤ m ∧ m < 2 * (t + 1) * 2 ^ (k - 1) ∧
      (roundShift m k = t ∧ (m < (2 * t + 1) * 2 ^ (k - 1) ∨ m = (2 * t + 1) * 2 ^ (k - 1) ∧ t % 2 = 0) ∨
        roundShift m k = t + 1 ∧ ((2 * t + 1) * 2 ^ (k - 1) < m ∨ m = (2 * t + 1) * 2 ^ (k - 1) ∧ t % 2 = 1)) := by
  have hd : 2 ^ k = 2 * 2 ^ (k - 1) := by rw [← pow_succ', Nat.sub_add_cancel hk]
  have hdiv := Nat.div_add_mod m (2 ^ k)
  have hmod : m % 2 ^ k < 2 ^ k := Nat.mod_lt _ (by positivity)
  refine ⟨m / 2 ^ k, ?_⟩
  unfold roundShift
  simp only []
  generalize m / 2 ^ k = t at *
  generalize m % 2 ^ k = r at *
  rw [hd] at hdiv hmod ⊢
  generalize 2 ^ (k - 1) = half at *
  have hlow : 2 * t * half = 2 * half * t := by ring
  have hmiddle : (2 * t + 1) * half = 2 * half * t + half := by ring
  have hhigh : 2 * (t + 1) * half = 2 * half * t + 2 * half := by ring
  rw [hlow, hmiddle, hhigh]
  refine ⟨by omega, by omega, ?_⟩
  split <;> omega

theorem roundShift_nearestEven {m k : Nat} {e : Int} {v : ℝ} (h : StandsFor m e v) (hk : 1 ≤ k)
    (hk' : 2 ^ 54 ≤ m → 2 ≤ k) : NearestEven (fun n => n) (v / 2 ^ (e + k)) (roundShift m k) := by
  have hcmp := h.compare_half hk hk'
  generalize v / 2 ^ (e + k) = y at hcmp ⊢
  obtain ⟨t, hlow, hhigh, hround⟩ := roundShift_cases m hk
  obtain ⟨hle, hge⟩ := hcmp (2 * t + 1)
  have hlo : (t : ℝ) ≤ y := by
    have := (hcmp (2 * t)).1.mpr hlow
    push_cast at this
    linarith
  have hhi : y < (t + 1 : ℕ) := by
    have := lt_of_not_ge ((hcmp (2 * (t + 1))).1.not.mpr hhigh.not_ge)
    push_cast at this ⊢
    linarith
  have hsum : (t : ℝ) + (t + 1 : ℕ) = (2 * t + 1 : ℕ) := by push_cast; ring
  have hbelow (hm : m < (2 * t + 1) * 2 ^ (k - 1)) : 2 * y < (2 * t + 1 : ℕ) :=
    lt_of_not_ge (hle.not.mpr hm.not_ge)
  have htie (hm : m = (2 * t + 1) * 2 ^ (k - 1)) : 2 * y = (2 * t + 1 : ℕ) :=
    le_antisymm (hge.mpr hm.le) (hle.mpr hm.ge)
  have habove (hm : (2 * t + 1) * 2 ^ (k - 1) < m) : (2 * t + 1 : ℕ) < 2 * y :=
    lt_of_not_ge (hge.not.mpr hm.not_ge)
  refine ⟨t, hlo, hhi, ?_⟩
  simp only [hsum]
  exact hround.imp (And.imp_right (Or.imp hbelow (And.imp_left htie)))
    (And.imp_right (Or.imp habove (And.imp_left htie)))

/-- The exponent of the last place of `m * 2^e` rounded to 53 bits (00_scope.md R14). -/
def lastPlace (m : Nat) (e : Int) : Int := Max.max ((m.log2 : Int) + e - 52) (-1074)

/-- `m * 2^e` rounded to units of its last place. -/
def significand (m : Nat) (e : Int) : Nat :=
  if lastPlace m e ≤ e then m * 2 ^ (e - lastPlace m e).toNat else roundShift m (lastPlace m e - e).toNat

/-- The magnitude pattern of `m * 2^e` rounded. -/
def roundedMagnitude (m : Nat) (e : Int) : Nat := (lastPlace m e + 1074).toNat * 2 ^ 52 + significand m e

theorem NUM.round_eq_signed {neg : Bool} {m : Nat} {e : Int} (hm : m ≠ 0)
    (hr : roundedMagnitude m e < 0x7FF0000000000000) : NUM.round neg m e = NUM.signed neg (roundedMagnitude m e) := by
  rw [NUM.round, if_neg hm]
  exact if_neg (Nat.not_le.mpr hr)

@[simp] theorem NUM.round_zero (neg : Bool) (e : Int) : NUM.round neg 0 e = NUM.zeroOf neg := rfl

theorem lastPlace_add_1074 (m : Nat) (e : Int) : lastPlace m e = ((lastPlace m e + 1074).toNat : Int) - 1074 := by
  have : -1074 ≤ lastPlace m e := le_max_right _ _
  omega

/-- A value that fills 54 bits or more loses two bits or more. -/
theorem lastPlace_of_big {m : Nat} (hm : 2 ^ 54 ≤ m) (e : Int) : e + 2 ≤ lastPlace m e := by
  have hlog : 54 ≤ m.log2 := (Nat.le_log2 (by omega)).mpr hm
  have : (m.log2 : Int) + e - 52 ≤ lastPlace m e := le_max_left _ _
  omega

/-- A value of at most 53 bits whose last place is not below the smallest loses none. -/
theorem lastPlace_le_of_small {m : Nat} {e : Int} (hm0 : m ≠ 0) (hm : m < 2 ^ 53) (he : -1074 ≤ e) :
    lastPlace m e ≤ e := by
  have hlog : m.log2 < 53 := (Nat.log2_lt hm0).mpr hm
  exact max_le (by omega) he

theorem StandsFor.bounds {m : Nat} {e : Int} {v : ℝ} (hm : m ≠ 0) (h : StandsFor m e v) :
    2 ^ ((m.log2 : Int) + e) ≤ v ∧ v < 2 ^ ((m.log2 : Int) + e + 1) := by
  have hlo := (h.compare (c := 2 ^ m.log2) fun hbig => by
    have hlog : 54 ≤ m.log2 := (Nat.le_log2 hm).mpr hbig
    rw [← Nat.succ_pred_eq_of_pos (by omega : 0 < m.log2), pow_succ, Nat.mul_mod_left]).1.mpr (Nat.log2_self_le hm)
  have hhi := (h.compare (c := 2 ^ (m.log2 + 1)) fun _ => by rw [pow_succ, Nat.mul_mod_left]).1.not.mpr
    (Nat.not_le.mpr Nat.lt_log2_self)
  push_cast [← zpow_natCast] at hlo hhi
  rw [← zpow_add₀ two_ne_zero] at hlo hhi
  exact ⟨hlo, by rw [add_right_comm]; exact not_le.mp hhi⟩

/-- Counted in its last place, a value has at most 53 bits, and 53 when that is not the smallest place. -/
theorem StandsFor.div_lastPlace_bounds {m : Nat} {e : Int} {v : ℝ} (hm : m ≠ 0) (h : StandsFor m e v) :
    v / 2 ^ lastPlace m e < 2 ^ 53 ∧ ((lastPlace m e + 1074).toNat = 0 ∨ 2 ^ 52 ≤ v / 2 ^ lastPlace m e) := by
  obtain ⟨hlo, hhi⟩ := h.bounds hm
  have hpow : (0 : ℝ) < 2 ^ lastPlace m e := zpow_pos two_pos _
  have hscale : ∀ k : ℕ, (2 : ℝ) ^ k * 2 ^ lastPlace m e = 2 ^ ((k : Int) + lastPlace m e) := fun k => by
    rw [zpow_add₀ two_ne_zero, zpow_natCast]
  rw [div_lt_iff₀ hpow, le_div_iff₀ hpow, hscale, hscale]
  refine ⟨hhi.trans_le (zpow_le_zpow_right₀ one_le_two ?_), ?_⟩
  · have : (m.log2 : Int) + e - 52 ≤ lastPlace m e := le_max_left _ _
    push_cast
    omega
  · rcases max_choice ((m.log2 : Int) + e - 52) (-1074) with hq | hq
    · refine .inr (le_of_eq_of_le ?_ hlo)
      rw [lastPlace, hq]
      congr 1
      push_cast
      omega
    · exact .inl (by rw [lastPlace, hq]; rfl)

theorem StandsFor.eq_of_small {m : Nat} {e : Int} {v : ℝ} (h : StandsFor m e v) (hm : m < 2 ^ 54) :
    v = m * 2 ^ e :=
  h.resolve_right fun hsticky => absurd hsticky.2.1 (Nat.not_le.mpr hm)

/-- Whole units are kept when nothing is lost. -/
theorem significand_of_le {m : Nat} {e : Int} (hq : lastPlace m e ≤ e) :
    ((significand m e : ℕ) : ℝ) = m * 2 ^ e / 2 ^ lastPlace m e := by
  rw [significand, if_pos hq, mul_div_assoc, ← zpow_sub₀ two_ne_zero]
  push_cast
  rw [← zpow_natCast, Int.toNat_of_nonneg (by omega)]

theorem significand_nearestEven {m : Nat} {e : Int} {v : ℝ} (h : StandsFor m e v) :
    NearestEven (fun n => n) (v / 2 ^ lastPlace m e) (significand m e) := by
  by_cases hq : lastPlace m e ≤ e
  · have hsmall : m < 2 ^ 54 := by
      by_contra hbig
      have := lastPlace_of_big (Nat.not_lt.mp hbig) e
      omega
    rw [h.eq_of_small hsmall, ← significand_of_le hq]
    exact NearestEven.self Nat.strictMono_cast _
  · have hk : lastPlace m e = e + (lastPlace m e - e).toNat := by omega
    rw [significand, if_neg hq]
    conv in (2 ^ lastPlace m e : ℝ) => rw [hk]
    exact roundShift_nearestEven h (by omega) fun hbig => by
      have := lastPlace_of_big hbig e
      omega

/-- The pattern that rounding gives is the nearest one (00_scope.md R14). -/
theorem roundedMagnitude_nearestEven {m : Nat} {e : Int} {v : ℝ} (hm : m ≠ 0) (h : StandsFor m e v) :
    NearestEven (fun n => patternUnits n) (v / (unitValue : ℝ)) (roundedMagnitude m e) := by
  obtain ⟨hlt, hge⟩ := h.div_lastPlace_bounds hm
  have hunits : v / (unitValue : ℝ) = v / 2 ^ lastPlace m e * 2 ^ (lastPlace m e + 1074).toNat := by
    have hpow := pow_mul_unitValue (lastPlace_add_1074 m e)
    have hne : (2 : ℝ) ^ (lastPlace m e + 1074).toNat ≠ 0 := by positivity
    rw [← hpow, div_mul_eq_mul_div, mul_comm, mul_div_mul_left _ _ hne]
  rw [hunits]
  exact (significand_nearestEven h).pattern hlt hge


theorem abs_signFactor_real (neg : Bool) : |(signFactor neg : ℝ)| = 1 := by
  cases neg <;> simp [signFactor]

/-- Changing the sign of a magnitude does not bring it nearer to a magnitude, and leaves it as near only when one of
the two is zero. -/
theorem abs_sub_le_abs_signFactor_mul_sub (neg : Bool) {a u : ℝ} (ha : 0 ≤ a) (hu : 0 ≤ u) :
    |a - u| ≤ |signFactor neg * a - u| ∧ (|signFactor neg * a - u| ≤ |a - u| → neg = false ∨ a = 0 ∨ u = 0) := by
  cases neg
  · simp
  · have hprod : 0 ≤ a * u := mul_nonneg ha hu
    have hsign : ((signFactor true : ℚ) : ℝ) = -1 := by norm_num [signFactor]
    rw [hsign, ← sq_le_sq, ← sq_le_sq]
    refine ⟨by nlinarith only [hprod], fun hle => .inr (mul_eq_zero.mp ?_)⟩
    exact le_antisymm (by nlinarith only [hle]) hprod

/-- The distance of a NUM from a value of the sign `neg` and `u` units, in units. -/
theorem NUM.abs_toRat_sub {z : NUM} (hz : z.isFinite = true) (neg : Bool) (u : ℝ) :
    |(z.toRat : ℝ) - signFactor neg * (u * unitValue)| =
      |signFactor (neg != z.negative) * patternUnits z.magnitude - u| * unitValue := by
  have hsign : signFactor z.negative = signFactor neg * signFactor (neg != z.negative) := by
    rw [signFactor_mul, ← Bool.bne_assoc, bne_self_eq_false, Bool.false_bne]
  have hfac : (z.toRat : ℝ) - signFactor neg * (u * unitValue) =
      signFactor neg * ((signFactor (neg != z.negative) * patternUnits z.magnitude - u) * unitValue) := by
    rw [NUM.toRat_of_isFinite hz, hsign]
    push_cast
    ring
  rw [hfac, abs_mul, abs_mul, abs_signFactor_real, one_mul, abs_of_pos unitValue_real_pos]

theorem patternUnits_real_strictMono : StrictMono fun n => (patternUnits n : ℝ) :=
  Nat.strictMono_cast.comp patternUnits_strictMono

/-- A NUM whose magnitude pattern is the nearest one to `u` units is, with either sign, a nearest NUM. -/
theorem NearestEven.isNearest {r : Nat} {u : ℝ} (h : NearestEven (fun n => patternUnits n) u r) (neg : Bool)
    (hu : 0 ≤ u) (hr : r < 0x7FF0000000000000) :
    (NUM.signed neg r).IsNearest (signFactor neg * (u * unitValue)) := by
  have hunit := unitValue_real_pos
  have hfin : (NUM.signed neg r).isFinite = true := NUM.signed_isFinite hr
  obtain ⟨hmag, hneg, hlast⟩ := NUM.signed_bits neg (n := r) (by omega)
  have hres := NUM.abs_toRat_sub hfin neg u
  rw [hmag, hneg, bne_self_eq_false, signFactor_false, Rat.cast_one, one_mul] at hres
  refine ⟨hfin, fun z hz => ?_⟩
  obtain ⟨hnear, htie⟩ := h.le patternUnits_real_strictMono z.magnitude
  obtain ⟨hsign, hsame⟩ :=
    abs_sub_le_abs_signFactor_mul_sub (neg != z.negative) (Nat.cast_nonneg (patternUnits z.magnitude)) hu
  rw [hres, NUM.abs_toRat_sub hz]
  refine ⟨mul_le_mul_of_nonneg_right (hnear.trans hsign) hunit.le, fun heq hne => ?_⟩
  have hdist := mul_right_cancel₀ hunit.ne' heq
  have heven : r % 2 = 0 := by
    refine htie (hsign.trans hdist.ge) fun hk => hne ?_
    rw [NUM.toRat_of_isFinite hz, NUM.toRat_signed hr]
    have hzero : u = 0 → patternUnits r = 0 := fun hu0 => by
      have := (h.le patternUnits_real_strictMono 0).1
      simpa [hu0] using this
    rw [hk] at hsame hdist ⊢
    rcases hsame hdist.ge with hsgn | h0 | hu0
    · rw [bne_eq_false_iff_eq.mp hsgn]
    · simp [Nat.cast_eq_zero.mp h0]
    · simp [hzero hu0]
  rw [hlast, decide_eq_false_iff_not]
  omega

/-- What is rounded to a pattern of an exponent above `q` is at least half a unit above the largest of exponent `q`. -/
theorem NearestEven.ge_of_le {q r : Nat} {u : ℝ} (h : NearestEven (fun n => patternUnits n) u r)
    (hr : q * 2 ^ 52 + 2 ^ 53 ≤ r) : (2 ^ 54 - 1) * 2 ^ q ≤ 2 * u := by
  have hmid := ((h.middle patternUnits_real_strictMono (q * 2 ^ 52 + (2 ^ 53 - 1))).1 (by omega)).1
  have hbig : (patternUnits (q * 2 ^ 52 + 2 ^ 53) : ℝ) ≤ patternUnits r := patternUnits_real_strictMono.monotone hr
  rw [patternUnits_of_significand (by omega) (by omega)] at hmid hbig
  push_cast at hmid hbig
  linarith

/-- A value in range is not rounded to infinity. -/
theorem NearestEven.lt_infinity {r : Nat} {v : ℝ} (h : NearestEven (fun n => patternUnits n) (|v| / unitValue) r)
    (hv : NUM.InRange v) : r < 0x7FF0000000000000 := by
  by_contra hr
  have hbig := h.ge_of_le (q := 2045) (by omega)
  have htop : (2 : ℝ) ^ 2044 * unitValue = 2 ^ 970 := pow_mul_unitValue (e := (970 : ℕ)) (by norm_num)
  have hsmall : |v| / unitValue < (2 ^ 54 - 1) * 2 ^ 2044 := by
    rw [div_lt_iff₀ unitValue_real_pos, mul_assoc, htop]
    exact hv
  rw [pow_succ' 2 2044] at hbig
  generalize (2 : ℝ) ^ 2044 = top at hbig hsmall
  linarith

theorem NUM.toRat_zeroOf (neg : Bool) : (NUM.zeroOf neg).toRat = 0 := by
  simp [NUM.zeroOf, NUM.toRat_signed]

/-- A zero of either sign is the nearest NUM to 0. -/
theorem NUM.zeroOf_isNearest (neg : Bool) : (NUM.zeroOf neg).IsNearest 0 := by
  refine ⟨NUM.signed_isFinite (by decide), fun z _ => ?_⟩
  rw [NUM.toRat_zeroOf, Rat.cast_zero, sub_zero, sub_zero, abs_zero]
  refine ⟨abs_nonneg _, fun heq hne => absurd ?_ hne⟩
  exact_mod_cast abs_eq_zero.mp heq.symm

/-- Rounding once, to nearest, ties to even (00_scope.md R14): the result for what `m * 2^e` stands for. -/
theorem NUM.round_isNearest {m : Nat} {e : Int} {v : ℝ} (neg : Bool) (h : StandsFor m e |v|)
    (hneg : v = signFactor neg * |v|) (hv : NUM.InRange v) : (NUM.round neg m e).IsNearest v := by
  by_cases hm : m = 0
  · subst hm
    have hzero : v = 0 := by simpa using h.eq_of_small (by norm_num)
    rw [NUM.round_zero, hzero]
    exact NUM.zeroOf_isNearest neg
  have hnear := roundedMagnitude_nearestEven hm h
  have hlt := hnear.lt_infinity hv
  have hres := hnear.isNearest neg (div_nonneg (abs_nonneg v) unitValue_real_pos.le) hlt
  rwa [div_mul_cancel₀ _ unitValue_real_pos.ne', ← hneg, ← NUM.round_eq_signed hm hlt] at hres

/-- A magnitude of at most 53 bits with its last place not above the largest is in range. -/
theorem inRange_of_significand {m : Nat} {e : Int} (hm : m < 2 ^ 53) (he : e ≤ 971) :
    NUM.InRange ((m : ℝ) * 2 ^ e) := by
  have hm' : (m : ℝ) ≤ 2 ^ 53 - 1 := by
    rw [le_sub_iff_add_le]
    exact_mod_cast Nat.succ_le_of_lt hm
  have hpow : (2 : ℝ) ^ e ≤ 2 * 2 ^ 970 := by
    rw [← pow_succ', ← zpow_natCast]
    exact zpow_le_zpow_right₀ one_le_two he
  have hle : (m : ℝ) * 2 ^ e ≤ (2 ^ 53 - 1) * (2 * 2 ^ 970) :=
    mul_le_mul hm' hpow (zpow_pos two_pos e).le (by norm_num)
  rw [NUM.InRange, abs_of_nonneg (by positivity)]
  have htop : (0 : ℝ) < 2 ^ 970 := by positivity
  generalize (2 : ℝ) ^ 970 = top at hle htop ⊢
  linarith

/-- Rounding what needs at most 53 bits, with its last place not below the smallest, changes nothing. -/
theorem NUM.round_exact {m : Nat} {e : Int} (neg : Bool) (hm : m < 2 ^ 53) (he : -1074 ≤ e) (he' : e ≤ 971) :
    (NUM.round neg m e).isFinite = true ∧ (NUM.round neg m e).toRat = signFactor neg * (m * 2 ^ e) := by
  by_cases hm0 : m = 0
  · subst hm0
    rw [NUM.round_zero, NUM.toRat_zeroOf]
    exact ⟨NUM.signed_isFinite (by decide), by simp⟩
  have hstands : StandsFor m e |(m : ℝ) * 2 ^ e| := .inl (abs_of_nonneg (by positivity))
  have hlt := (roundedMagnitude_nearestEven hm0 hstands).lt_infinity (inRange_of_significand hm he')
  obtain ⟨hbits, hlead⟩ := StandsFor.div_lastPlace_bounds (m := m) (e := e) hm0 (.inl rfl)
  rw [← significand_of_le (lastPlace_le_of_small hm0 hm he)] at hbits hlead
  have hvalue : (patternUnits (roundedMagnitude m e) : ℝ) * unitValue = m * 2 ^ e := by
    rw [roundedMagnitude, patternUnits_of_significand (by exact_mod_cast hbits.le) (by exact_mod_cast hlead)]
    push_cast
    rw [mul_assoc, pow_mul_unitValue (lastPlace_add_1074 m e), significand_of_le (lastPlace_le_of_small hm0 hm he),
      div_mul_cancel₀ _ (zpow_ne_zero _ two_ne_zero)]
  rw [NUM.round_eq_signed hm0 hlt, NUM.toRat_signed hlt]
  exact ⟨NUM.signed_isFinite hlt, congrArg _ (Rat.cast_injective (α := ℝ) (by push_cast; exact hvalue))⟩

end Sys2Proof
end

section
/-! PROOF of O46. `rhaz` (00_scope.md R16). -/

namespace Sys2Proof

/-- The integer is above `m * 2^e - 1/2` and at most `m * 2^e + 1/2`, so an exact half goes up. -/
theorem rhazNat_near (m : Nat) (e : Int) :
    (m * 2 ^ e : ℚ) - 1 / 2 < rhazNat m e ∧ (rhazNat m e : ℚ) ≤ m * 2 ^ e + 1 / 2 := by
  unfold rhazNat
  split
  next he =>
    lift e to ℕ using he
    constructor <;> push_cast [zpow_natCast, Int.toNat_natCast] <;> linarith
  next he =>
    obtain ⟨k, rfl⟩ : ∃ k : ℕ, e = -k := ⟨(-e).toNat, by omega⟩
    have hd : (0 : ℚ) < 2 ^ k := by positivity
    rw [neg_neg, Int.toNat_natCast, zpow_neg, zpow_natCast, ← div_eq_mul_inv]
    have hlt := Nat.lt_div_mul_add (a := 2 * m + 2 ^ k) (b := 2 * 2 ^ k) (by positivity)
    have hle := Nat.div_mul_le_self (2 * m + 2 ^ k) (2 * 2 ^ k)
    generalize (2 * m + 2 ^ k) / (2 * 2 ^ k) = r at hlt hle ⊢
    have hlt' : (2 * m + 2 ^ k : ℚ) < r * (2 * 2 ^ k) + 2 * 2 ^ k := by exact_mod_cast hlt
    have hle' : (r * (2 * 2 ^ k) : ℚ) ≤ 2 * m + 2 ^ k := by exact_mod_cast hle
    constructor
    · rw [sub_lt_iff_lt_add, div_lt_iff₀ hd]
      linarith
    · rw [← sub_le_iff_le_add, le_div_iff₀ hd]
      linarith

/-- Rounding a magnitude up at an exact half is rounding it to nearest, a half away from zero. -/
theorem abs_sub_le_half_of_near {r : Nat} {v : ℚ} (hv : 0 ≤ v) (hlo : v - 1 / 2 < r) (hhi : r ≤ v + 1 / 2) :
    |(r : ℚ) - v| ≤ 1 / 2 ∧ (|(r : ℚ) - v| = 1 / 2 → |v| < r) := by
  refine ⟨abs_le.mpr ⟨by linarith, by linarith⟩, fun htie => ?_⟩
  rw [abs_of_nonneg hv]
  rcases abs_cases ((r : ℚ) - v) with ⟨h, -⟩ | ⟨h, -⟩ <;> linarith

theorem NUM.rhaz_of_unpack {x : NUM} {neg : Bool} {m : Nat} {e : Int} (h : x.unpack = .fin neg m e) :
    (x.rhaz : ℚ) = signFactor neg * rhazNat m e := by
  simp only [NUM.rhaz, h, signFactor]
  cases neg <;> simp

/-- Settles O46: the magnitude is rounded up at an exact half, whatever the sign. -/
theorem rhazRoundsHalfAway : Obligations.RhazRoundsHalfAway := by
  intro x hx
  obtain ⟨neg, m, e, hu, -⟩ := NUM.unpack_of_isFinite hx
  rw [NUM.rhaz_of_unpack hu, NUM.toRat_of_unpack hu, ← mul_sub]
  simp only [abs_signFactor_mul, Nat.abs_cast]
  obtain ⟨hlo, hhi⟩ := rhazNat_near m e
  exact abs_sub_le_half_of_near (by positivity) hlo hhi

end Sys2Proof
end

section
/-! PROOF of O47. `num`, `clip16` and `fmod` (00_scope.md R15, R17). -/

namespace Sys2Proof

/-- `num(n)` is exact up to 2^53 (00_scope.md R15). -/
theorem NUM.ofNat_exact {n : Nat} (hn : n ≤ 2 ^ 53) :
    (NUM.ofNat n).isFinite = true ∧ (NUM.ofNat n).toRat = n := by
  rcases Nat.lt_or_eq_of_le hn with hlt | rfl
  · simpa [NUM.ofNat] using NUM.round_exact (m := n) (e := 0) false hlt (by norm_num) (by norm_num)
  · have hround : NUM.ofNat (2 ^ 53) = NUM.round false (2 ^ 52) 1 := by decide
    rw [hround]
    refine (NUM.round_exact (m := 2 ^ 52) (e := 1) false (by norm_num) (by norm_num) (by norm_num)).imp_right ?_
    intro h
    rw [h]
    norm_num

theorem clip16_toNat (n : Int) : ((clip16 n).toNat : Int) = min (max n 0) 65535 := by
  rw [clip16, BitVec.toNat_ofNat]
  omega

theorem NUM.order_eq (x : NUM) : x.order = if x.negative then -(x.magnitude : Int) else x.magnitude := by
  have hx : x.bits.toNat < 2 ^ 64 := x.bits.isLt
  simp only [NUM.order, NUM.negative, NUM.magnitude, beq_iff_eq]
  split <;> split <;> omega

/-- The comparisons with 0 are those of the exact value. -/
theorem NUM.zero_compare_iff {x : NUM} (hx : x.isFinite = true) :
    (NUM.zero.le x = true ↔ 0 ≤ x.toRat) ∧ (NUM.zero.lt x = true ↔ 0 < x.toRat) := by
  have hzero : NUM.zero.isNaN = false ∧ NUM.zero.order = 0 := by decide
  rw [NUM.le_iff, NUM.lt_iff, hzero.2, NUM.order_eq, NUM.toRat_of_isFinite hx]
  simp only [hzero.1, NUM.isNaN_of_isFinite hx, true_and]
  rcases Nat.eq_zero_or_pos x.magnitude with hmag | hmag
  · simp [hmag]
  have hpos : (0 : ℚ) < patternUnits x.magnitude * unitValue :=
    mul_pos (by exact_mod_cast patternUnits_strictMono hmag) unitValue_pos
  generalize (patternUnits x.magnitude : ℚ) * unitValue = v at hpos ⊢
  cases x.negative
  · simp [hpos, hpos.le, hmag]
  · simp [signFactor, hpos.not_ge, hpos.not_gt, hmag.ne']

/-- In units of the smaller last place one of the two counts has at most 53 bits, and so has their remainder. -/
theorem unitsRemainder_lt {m1 m2 : Nat} {e1 e2 : Int} (hm1 : m1 < 2 ^ 53) (hm2 : m2 < 2 ^ 53) (h2 : m2 ≠ 0) :
    (m1 * 2 ^ (e1 - min e1 e2).toNat) % (m2 * 2 ^ (e2 - min e1 e2).toNat) < 2 ^ 53 := by
  rcases min_choice e1 e2 with h | h
  · rw [h, sub_self, Int.toNat_zero, pow_zero, mul_one]
    exact (Nat.mod_le _ _).trans_lt hm1
  · rw [h, sub_self, Int.toNat_zero, pow_zero, mul_one]
    exact (Nat.mod_lt _ (Nat.pos_of_ne_zero h2)).trans hm2

/-- The remainder of two counts of one unit, as a value. -/
theorem mod_mul_unit (a b : Nat) {unit : ℚ} (hunit : unit ≠ 0) :
    ((a % b : ℕ) : ℚ) * unit = a * unit - b * unit * (⌊a * unit / (b * unit)⌋ : ℚ) := by
  rw [mul_div_mul_right _ _ hunit, Rat.floor_natCast_div_natCast, ← Int.natCast_div, Int.cast_natCast]
  have hdiv : ((b * (a / b) + a % b : ℕ) : ℚ) = a := by rw [Nat.div_add_mod]
  push_cast at hdiv ⊢
  linear_combination unit * hdiv

/-- A finite value that is at least 0, counted in units of a place not above its last. -/
theorem NUM.toRat_eq_units {x : NUM} {neg : Bool} {m : Nat} {e e' : Int} (hv : x.toRat = signFactor neg * (m * 2 ^ e))
    (hsign : neg = false ∨ m = 0) (he : e' ≤ e) : x.toRat = (m * 2 ^ (e - e').toNat : ℕ) * 2 ^ e' := by
  rw [hv, ← unitsOf_cast neg m he, unitsOf]
  rcases hsign with rfl | rfl <;> simp

/-- `fmod` needs no rounding (00_scope.md R17). -/
theorem NUM.fmod_exact {x y : NUM} (hx : x.isFinite = true) (hy : y.isFinite = true) (hx0 : 0 ≤ x.toRat)
    (hy0 : 0 < y.toRat) :
    (x.fmod y).isFinite = true ∧ (x.fmod y).toRat = x.toRat - y.toRat * (⌊x.toRat / y.toRat⌋ : ℚ) := by
  obtain ⟨a, m1, e1, hux, hm1, he1, he1', hvx⟩ := NUM.exists_unpack hx
  obtain ⟨b, m2, e2, huy, hm2, he2, he2', hvy⟩ := NUM.exists_unpack hy
  have hx' : a = false ∨ m1 = 0 := NUM.sign_of_nonneg hvx hx0
  have h2 : m2 ≠ 0 := by
    rintro rfl
    simp [hvy] at hy0
  have hb : b = false := (NUM.sign_of_nonneg hvy hy0.le).resolve_right h2
  have hdomain : ¬(m2 = 0 ∨ b = true ∨ a = true ∧ m1 ≠ 0) := by
    rcases hx' with rfl | rfl <;> simp [h2, hb]
  simp only [NUM.fmod, hux, huy, if_neg hdomain]
  obtain ⟨hfin, hval⟩ := NUM.round_exact (e := Min.min e1 e2) false (unitsRemainder_lt hm1 hm2 h2)
    (le_min he1 he2) ((min_le_left _ _).trans he1')
  refine ⟨hfin, ?_⟩
  rw [hval, signFactor_false, one_mul, mod_mul_unit _ _ (zpow_ne_zero _ two_ne_zero),
    ← NUM.toRat_eq_units hvx hx' (min_le_left e1 e2), ← NUM.toRat_eq_units hvy (.inl hb) (min_le_right e1 e2)]

/-- Settles O47: what each result needs fits 53 bits, so the rounding at its end changes nothing. -/
theorem numClipFmodAreExact : Obligations.NumClipFmodAreExact :=
  ⟨fun _ hn => NUM.ofNat_exact hn, clip16_toNat, fun _ _ hx hy hx0 hy0 =>
    NUM.fmod_exact hx hy ((NUM.zero_compare_iff hx).1.mp hx0) ((NUM.zero_compare_iff hy).2.mp hy0)⟩

end Sys2Proof
end

section
/-! PROOF of O48. Sum, difference and product (00_scope.md R14). -/

namespace Sys2Proof

/-- A rounded value that is exact in its `m` and `e`, as every sum and product is. -/
theorem NUM.round_isNearest_of_eq {m : Nat} {e : Int} {neg : Bool} {v : ℚ} (h : v = signFactor neg * (m * 2 ^ e))
    (hv : NUM.InRange v) : (NUM.round neg m e).IsNearest v := by
  have habs : |v| = m * 2 ^ e := by rw [h, abs_signFactor_mul, abs_of_nonneg (by positivity)]
  have habs' : |(v : ℝ)| = m * 2 ^ e := by
    rw [← Rat.cast_abs, habs]
    push_cast
    rfl
  refine NUM.round_isNearest neg (.inl habs') ?_ hv
  rw [← Rat.cast_abs, ← Rat.cast_mul, habs, ← h]

theorem signFactor_mul_natAbs (z : Int) : signFactor (decide (z < 0)) * (z.natAbs : ℚ) = z := by
  rw [Nat.cast_natAbs, signFactor]
  split
  next h => rw [abs_of_neg (by simpa using h)]; simp
  next h => rw [abs_of_nonneg (by simpa using h)]; simp

theorem NUM.add_isNearest {x y : NUM} (hx : x.isFinite = true) (hy : y.isFinite = true)
    (h : NUM.InRange (x.toRat + y.toRat)) : (x.add y).IsNearest (x.toRat + y.toRat) := by
  obtain ⟨a, m1, e1, hux, -, -, -, hvx⟩ := NUM.exists_unpack hx
  obtain ⟨b, m2, e2, huy, -, -, -, hvy⟩ := NUM.exists_unpack hy
  rw [← Rat.cast_add] at h ⊢
  simp only [NUM.add, hux, huy]
  generalize hz : unitsOf a m1 e1 (Min.min e1 e2) + unitsOf b m2 e2 (Min.min e1 e2) = z
  have hsum : x.toRat + y.toRat = z * 2 ^ Min.min e1 e2 := by
    rw [hvx, hvy, ← unitsOf_cast a m1 (min_le_left e1 e2), ← unitsOf_cast b m2 (min_le_right e1 e2), ← add_mul, ← hz,
      Int.cast_add]
  split
  next h0 =>
    rw [hsum, h0]
    simpa using NUM.zeroOf_isNearest (a && b)
  next h0 =>
    refine NUM.round_isNearest_of_eq ?_ h
    rw [hsum, ← mul_assoc, signFactor_mul_natAbs]

theorem NUM.magnitude_eq_setWidth (x : NUM) : x.magnitude = (x.bits.setWidth 63).toNat :=
  (BitVec.toNat_setWidth 63 x.bits).symm

theorem NUM.negative_eq_msb (x : NUM) : x.negative = x.bits.msb := by
  have hx : x.bits.toNat < 2 ^ 64 := x.bits.isLt
  rw [BitVec.msb_eq_decide, NUM.negative, Bool.eq_iff_iff, beq_iff_eq, decide_eq_true_eq]
  omega

theorem NUM.neg_bits (x : NUM) : x.neg.magnitude = x.magnitude ∧ x.neg.negative = !x.negative := by
  have hlow : (0x8000000000000000#64).setWidth 63 = 0#63 := by decide
  have hhigh : (0x8000000000000000#64).msb = true := by decide
  simp only [NUM.magnitude_eq_setWidth, NUM.negative_eq_msb, NUM.neg]
  rw [BitVec.setWidth_xor, hlow, BitVec.xor_zero, BitVec.msb_xor, hhigh, Bool.xor_true]
  exact ⟨rfl, rfl⟩

/-- Negation is exact (00_scope.md R14). -/
theorem NUM.toRat_neg {x : NUM} (hx : x.isFinite = true) : x.neg.isFinite = true ∧ x.neg.toRat = -x.toRat := by
  obtain ⟨hmag, hneg⟩ := x.neg_bits
  have hfin : x.neg.isFinite = true := by rwa [NUM.isFinite_iff_magnitude, hmag, ← NUM.isFinite_iff_magnitude]
  refine ⟨hfin, ?_⟩
  rw [NUM.toRat_of_isFinite hfin, NUM.toRat_of_isFinite hx, hmag, hneg]
  cases x.negative <;> simp [signFactor]

theorem NUM.sub_isNearest {x y : NUM} (hx : x.isFinite = true) (hy : y.isFinite = true)
    (h : NUM.InRange (x.toRat - y.toRat)) : (x.sub y).IsNearest (x.toRat - y.toRat) := by
  obtain ⟨hfin, hval⟩ := NUM.toRat_neg hy
  have hsub : (x.toRat - y.toRat : ℝ) = x.toRat + y.neg.toRat := by
    rw [hval, Rat.cast_neg, sub_eq_add_neg]
  rw [hsub] at h ⊢
  exact NUM.add_isNearest hx hfin h

theorem NUM.mul_isNearest {x y : NUM} (hx : x.isFinite = true) (hy : y.isFinite = true)
    (h : NUM.InRange (x.toRat * y.toRat)) : (x.mul y).IsNearest (x.toRat * y.toRat) := by
  obtain ⟨a, m1, e1, hux, -, -, -, hvx⟩ := NUM.exists_unpack hx
  obtain ⟨b, m2, e2, huy, -, -, -, hvy⟩ := NUM.exists_unpack hy
  rw [← Rat.cast_mul] at h ⊢
  simp only [NUM.mul, hux, huy]
  refine NUM.round_isNearest_of_eq ?_ h
  rw [hvx, hvy, ← signFactor_mul, zpow_add₀ two_ne_zero, Nat.cast_mul]
  ring

/-- Settles O48: the exact result is a natural number of units, rounded once. -/
theorem addSubMulCorrectlyRounded : Obligations.AddSubMulCorrectlyRounded :=
  fun _ _ hx hy => ⟨NUM.add_isNearest hx hy, NUM.sub_isNearest hx hy, NUM.mul_isNearest hx hy⟩

end Sys2Proof
end

section
/-! PROOF of O49. Quotient and square root (00_scope.md R14). -/

namespace Sys2Proof

/-- Twice the whole part of `w`, with a last bit for what is left over, stands for `w` when it is long enough. -/
theorem standsFor_sticky {whole : Prop} [Decidable whole] {a : Nat} {w : ℝ} (ha : 2 ^ 53 ≤ a) (hlo : a ≤ w)
    (hhi : w < a + 1) (hwhole : whole ↔ w = a) (e : Int) :
    StandsFor (2 * a + if whole then 0 else 1) (e - 1) (w * 2 ^ e) := by
  have hpow : (2 : ℝ) ^ e = 2 * 2 ^ (e - 1) := by rw [← zpow_one_add₀ two_ne_zero, add_sub_cancel]
  have hpos : (0 : ℝ) < 2 ^ (e - 1) := zpow_pos two_pos _
  rw [StandsFor, hpow, ← mul_assoc, mul_lt_mul_iff_left₀ hpos, mul_lt_mul_iff_left₀ hpos]
  split
  next h =>
    refine .inl ?_
    rw [hwhole.mp h]
    push_cast
    ring
  next h =>
    have hlt : (a : ℝ) < w := lt_of_le_of_ne hlo fun heq => h (hwhole.mpr heq.symm)
    refine .inr ⟨by omega, by omega, ?_, ?_⟩ <;> push_cast <;> linarith

/-- The scaled dividend has a quotient of at least 55 bits. -/
theorem quotient_big {m1 m2 : Nat} (h1 : m1 ≠ 0) (hm1 : m1 < 2 ^ 53) (h2 : m2 ≠ 0) :
    2 ^ 53 ≤ m1 * 2 ^ (56 + m2.log2 - m1.log2) / m2 := by
  have hlog : m1.log2 < 53 := (Nat.log2_lt h1).mpr hm1
  rw [Nat.le_div_iff_mul_le (Nat.pos_of_ne_zero h2)]
  calc 2 ^ 53 * m2 ≤ 2 ^ 53 * 2 ^ (m2.log2 + 1) := Nat.mul_le_mul_left _ Nat.lt_log2_self.le
    _ ≤ 2 ^ (56 + m2.log2) := by rw [← pow_add]; exact Nat.pow_le_pow_right two_pos (by omega)
    _ = 2 ^ m1.log2 * 2 ^ (56 + m2.log2 - m1.log2) := by rw [← pow_add]; congr 1; omega
    _ ≤ _ := Nat.mul_le_mul_right _ (Nat.log2_self_le h1)

theorem stickyQuotient_standsFor {m1 m2 k : Nat} (h2 : m2 ≠ 0) (hbig : 2 ^ 53 ≤ m1 * 2 ^ k / m2) (e : Int) :
    StandsFor (stickyQuotient m1 m2 k) (e - k - 1) (m1 / m2 * 2 ^ e) := by
  have hpos : (0 : ℝ) < m2 := by exact_mod_cast Nat.pos_of_ne_zero h2
  have hscale : (m1 / m2 * 2 ^ e : ℝ) = ((m1 * 2 ^ k : ℕ) : ℝ) / m2 * 2 ^ (e - k) := by
    rw [zpow_sub₀ two_ne_zero, zpow_natCast]
    push_cast
    field_simp
  rw [hscale]
  refine standsFor_sticky hbig Nat.cast_div_le ?_ ?_ _
  · rw [div_lt_iff₀ hpos]
    have := Nat.lt_div_mul_add (a := m1 * 2 ^ k) (Nat.pos_of_ne_zero h2)
    rw [add_one_mul]
    exact_mod_cast this
  · rw [div_eq_iff hpos.ne', ← Nat.dvd_iff_mod_eq_zero]
    constructor
    · intro hdvd
      exact_mod_cast (Nat.div_mul_cancel hdvd).symm
    · intro heq
      exact Dvd.intro_left _ (by exact_mod_cast heq.symm)

theorem NUM.div_isNearest {x y : NUM} (hx : x.isFinite = true) (hy : y.isFinite = true) (hne : y.toRat ≠ 0)
    (h : NUM.InRange (x.toRat / y.toRat)) : (x.div y).IsNearest (x.toRat / y.toRat) := by
  obtain ⟨a, m1, e1, hux, hm1, -, -, hvx⟩ := NUM.exists_unpack hx
  obtain ⟨b, m2, e2, huy, -, -, -, hvy⟩ := NUM.exists_unpack hy
  have h2 : m2 ≠ 0 := by
    rintro rfl
    simp [hvy] at hne
  have hquot : x.toRat / y.toRat = signFactor (a != b) * (m1 / m2 * 2 ^ (e1 - e2)) := by
    rw [hvx, hvy, mul_div_mul_comm, mul_div_mul_comm, signFactor_div, zpow_sub₀ two_ne_zero]
  rw [← Rat.cast_div] at h ⊢
  simp only [NUM.div, hux, huy, if_neg h2]
  by_cases h1 : m1 = 0
  · subst h1
    rw [hquot]
    simpa [stickyQuotient] using NUM.zeroOf_isNearest (a != b)
  have hbig := quotient_big h1 hm1 h2
  have habs : |x.toRat / y.toRat| = m1 / m2 * 2 ^ (e1 - e2) := by
    rw [hquot, abs_signFactor_mul, abs_of_nonneg (by positivity)]
  refine NUM.round_isNearest _ ?_ ?_ h
  · rw [← Rat.cast_abs, habs]
    have hstands := stickyQuotient_standsFor h2 hbig (e1 - e2)
    push_cast
    exact hstands
  · rw [← Rat.cast_abs, ← Rat.cast_mul, habs, ← hquot]

/-- Trying the bits from the top down finds the integer square root. -/
theorem isqrtBits_eq_sqrt {n k r : Nat} (hlo : r * r ≤ n) (hhi : n < (r + 2 ^ k) * (r + 2 ^ k)) :
    isqrtBits n k r = n.sqrt := by
  induction k generalizing r with
  | zero => exact Nat.eq_sqrt.mpr ⟨hlo, hhi⟩
  | succ k ih =>
    rw [isqrtBits]
    split
    next hbit =>
      exact ih hbit (by rwa [add_assoc, ← two_mul, ← pow_succ'])
    next hbit => exact ih hlo (Nat.not_le.mp hbit)

theorem stickySqrt_standsFor {n : Nat} (hlo : 2 ^ 106 ≤ n) (hhi : n < 2 ^ 114) (e : Int) :
    StandsFor (stickySqrt n) (e - 1) (Real.sqrt n * 2 ^ e) := by
  have hroot : isqrtBits n 57 0 = n.sqrt := isqrtBits_eq_sqrt (Nat.zero_le _) (by simpa using hhi)
  rw [stickySqrt, hroot]
  refine standsFor_sticky (Nat.le_sqrt.mpr hlo) Real.nat_sqrt_le_real_sqrt Real.real_sqrt_lt_nat_sqrt_succ ?_ e
  rw [Real.sqrt_eq_iff_mul_self_eq (by positivity) (by positivity)]
  constructor <;> intro h <;> exact_mod_cast h.symm

/-- The scaling of a square root's operand: an even exponent, and 111 or 112 bits. -/
theorem sqrt_scaling {m : Nat} {e : Int} {k : Nat} (hm : m ≠ 0) (hm' : m < 2 ^ 53)
    (hk : k = 110 - m.log2 + ((e - (110 - m.log2 : Nat)) % 2).toNat) :
    2 * ((e - k) / 2) = e - k ∧ 2 ^ 106 ≤ m * 2 ^ k ∧ m * 2 ^ k < 2 ^ 114 := by
  have hlog : m.log2 < 53 := (Nat.log2_lt hm).mpr hm'
  refine ⟨by omega, ?_, ?_⟩
  · calc 2 ^ 106 ≤ 2 ^ m.log2 * 2 ^ k := by rw [← pow_add]; exact Nat.pow_le_pow_right two_pos (by omega)
      _ ≤ _ := Nat.mul_le_mul_right _ (Nat.log2_self_le hm)
  · calc m * 2 ^ k < 2 ^ (m.log2 + 1) * 2 ^ k := Nat.mul_lt_mul_of_pos_right Nat.lt_log2_self (by positivity)
      _ ≤ 2 ^ 114 := by rw [← pow_add]; exact Nat.pow_le_pow_right two_pos (by omega)

theorem sqrt_mul_zpow (m k : Nat) {e : Int} (h : 2 * ((e - k) / 2) = e - k) :
    Real.sqrt (m * 2 ^ e) = Real.sqrt (m * 2 ^ k : ℕ) * 2 ^ ((e - k) / 2) := by
  have hpow : (m : ℝ) * 2 ^ e = (m * 2 ^ k : ℕ) * (2 ^ ((e - k) / 2)) ^ 2 := by
    rw [← zpow_natCast (2 ^ ((e - k) / 2)), ← zpow_mul, mul_comm _ ((2 : ℕ) : Int), Nat.cast_ofNat, h,
      zpow_sub₀ two_ne_zero, zpow_natCast]
    push_cast
    field_simp
  rw [hpow, Real.sqrt_mul (by positivity), Real.sqrt_sq (by positivity)]

theorem inRange_sqrt {v : ℝ} (hv : NUM.InRange v) : NUM.InRange (Real.sqrt v) := by
  have htop : (1 : ℝ) ≤ 2 ^ 970 := one_le_pow₀ one_le_two
  rw [NUM.InRange] at *
  generalize (2 : ℝ) ^ 970 = top at *
  rw [abs_of_nonneg (Real.sqrt_nonneg v)]
  rcases le_total v 1 with h | h
  · have := Real.sqrt_le_one.mpr h
    linarith
  · exact (Real.sqrt_le_iff.mpr ⟨by linarith, le_self_pow₀ h two_ne_zero⟩).trans_lt ((le_abs_self v).trans_lt hv)

theorem NUM.sqrt_isNearest {x : NUM} (hx : x.isFinite = true) (hpos : 0 ≤ x.toRat) :
    x.sqrt.IsNearest (Real.sqrt x.toRat) := by
  obtain ⟨neg, m, e, hu, hm', -, he, hv⟩ := NUM.exists_unpack hx
  simp only [NUM.sqrt, hu]
  by_cases hm : m = 0
  · subst hm
    simpa [hv] using NUM.zeroOf_isNearest neg
  have hneg : neg = false := (NUM.sign_of_nonneg hv hpos).resolve_right hm
  subst hneg
  rw [if_neg hm, if_neg Bool.false_ne_true]
  generalize hk : 110 - m.log2 + ((e - (110 - m.log2 : Nat)) % 2).toNat = k
  obtain ⟨heven, hlo, hhi⟩ := sqrt_scaling hm hm' hk.symm
  have hval : (x.toRat : ℝ) = m * 2 ^ e := by
    rw [hv, signFactor_false, one_mul]
    push_cast
    rfl
  rw [hval]
  have hrange : NUM.InRange (Real.sqrt (m * 2 ^ e)) := inRange_sqrt (inRange_of_significand hm' he)
  have hroot := stickySqrt_standsFor hlo hhi ((e - k) / 2)
  rw [← sqrt_mul_zpow m k heven] at hroot
  refine NUM.round_isNearest false ?_ ?_ hrange
  · rwa [abs_of_nonneg (Real.sqrt_nonneg _)]
  · rw [abs_of_nonneg (Real.sqrt_nonneg _), signFactor_false, Rat.cast_one, one_mul]

/-- Settles O49: what a quotient or a root leaves over is kept in a last bit, so the one rounding sees the exact
result's side of every middle. -/
theorem divSqrtCorrectlyRounded : Obligations.DivSqrtCorrectlyRounded :=
  fun _ _ hx hy => ⟨NUM.div_isNearest hx hy, NUM.sqrt_isNearest hx⟩

end Sys2Proof
end

section
/-! PROOF of O50. The median (00_scope.md R18). -/

namespace Sys2Proof

@[simp] theorem NUM.insertSorted_nil (x : NUM) : NUM.insertSorted x [] = [x] := rfl

theorem NUM.insertSorted_cons (x y : NUM) (ys : List NUM) :
    NUM.insertSorted x (y :: ys) = if y.lt x then y :: NUM.insertSorted x ys else x :: y :: ys := rfl

theorem NUM.insertSorted_perm (x : NUM) (ys : List NUM) : (NUM.insertSorted x ys).Perm (x :: ys) := by
  induction ys with
  | nil => exact .refl _
  | cons y ys ih =>
    rw [NUM.insertSorted_cons]
    split
    · exact (ih.cons y).trans (.swap x y ys)
    · exact .refl _

theorem NUM.sorted_perm (xs : List NUM) : (NUM.sorted xs).Perm xs := by
  induction xs with
  | nil => exact .refl _
  | cons x xs ih => exact (NUM.insertSorted_perm x _).trans (ih.cons x)

/-- A list that rises: every element is at most every later one (00_scope.md R18). -/
abbrev NUM.Rises (xs : List NUM) : Prop := xs.Pairwise fun a b => a.le b = true

theorem NUM.insertSorted_rises {x : NUM} {ys : List NUM} (hx : x.isNaN = false) (hys : ∀ y ∈ ys, y.isNaN = false)
    (h : NUM.Rises ys) : NUM.Rises (NUM.insertSorted x ys) := by
  induction ys with
  | nil => exact List.pairwise_singleton _ _
  | cons y ys ih =>
    obtain ⟨hy, hrest⟩ := List.forall_mem_cons.mp hys
    obtain ⟨hle, htail⟩ := List.pairwise_cons.mp h
    rw [NUM.insertSorted_cons]
    split
    next hlt =>
      have hyx : y.le x = true := NUM.le_iff.mpr ⟨hy, hx, (NUM.lt_iff.mp hlt).2.2.le⟩
      refine List.pairwise_cons.mpr ⟨fun z hz => ?_, ih hrest htail⟩
      rcases List.mem_cons.mp ((NUM.insertSorted_perm x ys).mem_iff.mp hz) with rfl | hz
      · exact hyx
      · exact hle z hz
    next hlt =>
      have hxy : x.le y = true := (NUM.not_lt hy hx).mp (by simpa using hlt)
      refine List.pairwise_cons.mpr ⟨fun z hz => ?_, h⟩
      rcases List.mem_cons.mp hz with rfl | hz
      · exact hxy
      · exact NUM.le_trans hxy (hle z hz)

theorem NUM.sorted_rises {xs : List NUM} (hxs : ∀ x ∈ xs, x.isNaN = false) : NUM.Rises (NUM.sorted xs) := by
  induction xs with
  | nil => exact List.Pairwise.nil
  | cons x xs ih =>
    obtain ⟨hx, hrest⟩ := List.forall_mem_cons.mp hxs
    exact NUM.insertSorted_rises hx (fun y hy => hrest y ((NUM.sorted_perm xs).mem_iff.mp hy)) (ih hrest)

/-- The median is an element of the sorted list: the position `(n - 1) / 2` is inside a list that is not empty. -/
theorem NUM.getElem?_sorted_middle {xs : List NUM} (h : xs ≠ []) :
    (NUM.sorted xs)[(xs.length - 1) / 2]? = some (NUM.median xs) := by
  have hpos : 0 < xs.length := List.length_pos_iff.mpr h
  have hin : (xs.length - 1) / 2 < (NUM.sorted xs).length := by
    rw [(NUM.sorted_perm xs).length_eq]
    omega
  rw [NUM.median, List.getD_eq_getElem _ _ hin, List.getElem?_eq_getElem hin]

/-- Settles O50: insertion keeps a list without NaN rising, and every insertion is a rearrangement. -/
theorem medianIsMiddleOfSorted : Obligations.MedianIsMiddleOfSorted := by
  intro xs hodd hnan
  have hne : xs ≠ [] := by
    rintro rfl
    simp at hodd
  exact ⟨NUM.sorted xs, NUM.sorted_perm xs, NUM.sorted_rises hnan, NUM.getElem?_sorted_middle hne⟩

end Sys2Proof
end

section
/-! PROOF LAYER for 10_state.md. What one command leaves of the state: one inversion lemma over the ten commands
(`exec_effect`) and one over the ROI sequence (`sequenceRoi_effect`); the facts about all commands follow from them. -/

namespace Sys2Proof.Machine

/-! ### What the ROI sequence leaves -/

/-- The frame a ROI with header `h` is assembled into: one it opens, or the open one, which it matches
(40_commands.md R158 step 5). -/
inductive JoinsFrame (c : Context) (h : RoiHeader) : Context → Prop
  | opened : JoinsFrame c h (openFrame c h)
  | joined (hopen : c.frameOpen = true) (hmatch : frameMatch c.fd h = true) : JoinsFrame c h c

/-- A ROI is added to the frame (40_commands.md R158 step 6). -/
inductive Accumulates (p : Params) (ctrl : BitVec 32) (c : Context) (e : RoiView) : Context → Prop
  | grid (hm : c.fd.mode = .grid) : Accumulates p ctrl c e (gridAccumulate c e)
  | stripe {c' : Context} (hm : c.fd.mode = .stripe) (ha : stripeAccumulate p ctrl c e = some c') :
      Accumulates p ctrl c e c'

/-- What steps 5 to 8 of 40_commands.md R158 can answer to an emitted ROI. -/
inductive FrameEffect (p : Params) (ctrl : BitVec 32) (thr : NUM) (c : Context) (e : RoiView) : RoiOutcome → Prop
  | skipped {reason : Reason} (hr : pairLegal .skip reason = true) : FrameEffect p ctrl thr c e ⟨.skip, reason, c⟩
  | mismatched : FrameEffect p ctrl thr c e (fatalOutcome c .frameMismatch)
  | overflowed {c₁ : Context} (hj : JoinsFrame c e.header c₁) :
      FrameEffect p ctrl thr c e (fatalOutcome c₁ .stripeOverflow)
  | kept {c₁ c₂ : Context} (hj : JoinsFrame c e.header c₁) (ha : Accumulates p ctrl c₁ e c₂) :
      FrameEffect p ctrl thr c e ⟨.ok, .none, c₂⟩
  | emitted {c₁ c₂ : Context} (hj : JoinsFrame c e.header c₁) (ha : Accumulates p ctrl c₁ e c₂) :
      FrameEffect p ctrl thr c e ⟨.emit, .none, framePipeline p ctrl thr c₂⟩

/-- A ROI that has its frame is added and completes it or not, or finds no room. -/
theorem assembleStep_effect {p : Params} {ctrl : BitVec 32} {thr : NUM} {c c₁ : Context} {e : RoiView}
    (hj : JoinsFrame c e.header c₁) : FrameEffect p ctrl thr c e (assembleStep p ctrl thr c₁ e) := by
  have complete : ∀ {c₂}, Accumulates p ctrl c₁ e c₂ →
      FrameEffect p ctrl thr c e (completeStep p ctrl thr c₂ e.header) := by
    intro c₂ ha
    rcases completeStep_cases p ctrl thr c₂ e.header with ⟨-, h⟩ | ⟨-, h⟩ <;> rw [h]
    · exact .emitted hj ha
    · exact .kept hj ha
  rcases assembleStep_cases p ctrl thr c₁ e with ⟨hm, h⟩ | ⟨-, -, h⟩ | ⟨c₂, hm, ha, h⟩ <;> rw [h]
  · exact complete (.grid hm)
  · exact .overflowed hj
  · exact complete (.stripe hm ha)

theorem frameStep_effect (p : Params) (ctrl : BitVec 32) (thr : NUM) (c : Context) (e : RoiView) :
    FrameEffect p ctrl thr c e (frameStep p ctrl thr c e) := by
  rcases frameStep_cases p ctrl thr c e with ⟨-, h⟩ | ⟨-, -, h⟩ | ⟨-, -, -, h⟩ | ⟨-, hopen, hmatch, h⟩ <;> rw [h]
  · exact assembleStep_effect .opened
  · exact .skipped (by split <;> rfl)
  · exact .mismatched
  · exact assembleStep_effect (.joined hopen hmatch)

theorem mode_of_hdrActive {ctrl : BitVec 32} {h : RoiHeader} (hact : hdrActive ctrl h = true) : h.mode = .stripe := by
  obtain ⟨-, -, hm⟩ := hdrActive_iff.mp hact
  exact hm

/-- What an attributed ROI command can answer: it failed validation, it was stored, its shape was wrong, or what the
conditioner emitted went on to the frame assembler (40_commands.md R155, R158). -/
inductive RoiEffect (p : Params) (ctrl : BitVec 32) (thr : NUM) (c : Context) : RoiOutcome → Prop
  | malformed {reason : Reason} (hr : pairLegal .fatal reason = true) : RoiEffect p ctrl thr c (fatalOutcome c reason)
  | stored {roi : RoiRecord} (hroi : RoiRecord.legal p roi = true) (hm : roi.header.mode = .stripe) :
      RoiEffect p ctrl thr c ⟨.skip, .hdrStored, { c with hdrPrev := some roi, hdrCorrected := false }⟩
  | conditioned {roi out : RoiRecord} {c₁ : Context} {o : RoiOutcome} (hroi : RoiRecord.legal p roi = true)
      (hc : condition p ctrl c roi = .emitted c₁ out) (ho : FrameEffect p ctrl thr c₁ (derotate out) o) :
      RoiEffect p ctrl thr c o

theorem sequenceRoi_effect {p : Params} (ctrl : BitVec 32) (thr : NUM) (c : Context) {roi : RoiRecord}
    (hroi : RoiRecord.legal p roi = true) : RoiEffect p ctrl thr c (sequenceRoi p ctrl thr c roi) := by
  have emitted : ∀ {c₁ out}, condition p ctrl c roi = .emitted c₁ out →
      RoiEffect p ctrl thr c (sequenceRoi p ctrl thr c roi) := by
    intro c₁ out hc
    rw [sequenceRoi, hc]
    exact .conditioned hroi hc (frameStep_effect p ctrl thr c₁ (derotate out))
  rcases condition_cases p ctrl c roi with ⟨-, h⟩ | ⟨hact, -, h⟩ | ⟨held, -, -, -, -, h⟩ | ⟨held, -, -, -, -, h⟩
  · exact emitted h
  · rw [sequenceRoi, h]
    exact .stored hroi (mode_of_hdrActive hact)
  · rcases mergeRetake_cases p.satThresh c held roi with ⟨-, hm⟩ | ⟨-, hm⟩
    · exact emitted (h.trans hm)
    · rw [sequenceRoi, h, hm]
      exact .malformed rfl
  · exact emitted h

/-- Every reason of a record that fails validation goes with FATAL (30_encoding.md R108). -/
theorem pairLegal_of_headerFault {p : Params} {record : List Word} {reason : Reason}
    (h : headerFault p record = some reason) : pairLegal .fatal reason = true := by
  unfold headerFault at h
  simp only [] at h
  split_ifs at h <;> cases h <;> rfl

/-! ### What each command leaves

The `_cases` lemmas of Laws/Ops.lean leave the reason of a rejection open; here it is one that goes with REJECT
(30_encoding.md R108). -/

/-- The context of virtual sensor `v` after an accepted command addressed to it, with the RESULT and REASON answered. -/
inductive ContextEffect (i : Instr) (s : State) (v : Nat) : Context → Result → Reason → Prop
  | restarted {f : CmdFields} (hi : i = .vsreset f) (hf : vsOf f = v) :
      ContextEffect i s v (s.ctx v).restart .ok .none
  | offsetWritten {f : CmdFields} (hi : i = .wrreg f) (hx : NUM.isFinite ⟨f.arg⟩ = true) :
      ContextEffect i s v { s.ctx v with rangeOffset := ⟨f.arg⟩ } .ok .none
  | limitWritten {f : CmdFields} (hi : i = .wrreg f) (hx : NUM.isNaN ⟨f.arg⟩ = false) :
      ContextEffect i s v { s.ctx v with rangeLimit := ⟨f.arg⟩ } .ok .none
  | maskWritten {f : CmdFields} (hi : i = .wrmask f) (hrow : rowOf f < s.params.maxRows.val)
      (hcol : colOf f < s.params.maxCols.val) :
      ContextEffect i s v ((s.ctx v).setMaskBit (rowOf f) (colOf f) (f.imm.getLsbD 0)) .ok .none
  | assembled {f : CmdFields} {record : List Word} {o : RoiOutcome} (hi : i = .roi f record)
      (ho : RoiEffect s.params s.ctrl s.snrThreshold (s.ctx v) o) :
      ContextEffect i s v (o.ctx.record o.result o.reason) o.result o.reason

/-- What one command can leave of the state `s`. -/
inductive CommandEffect (i : Instr) (s : State) : State → Prop
  | responded {result : Result} {reason : Reason} {data : BitVec 64} (hr : Response.legal ⟨result, reason, data⟩ = true)
      (hf : result = .fatal → ∃ f record, i = .roi f record ∧ validate s.params s.numVs record = .unattributed reason) :
      CommandEffect i s (s.respond result reason data)
  | cleared {f : CmdFields} (hi : i = .reset f) : CommandEffect i s (s.resetAll.answer 0)
  | ctrlWritten {f : CmdFields} (hi : i = .wrreg f) (hx : ctrlLegal f.arg = true) :
      CommandEffect i s (State.answer { s with ctrl := f.arg.setWidth 32 } 0)
  | thresholdWritten {f : CmdFields} (hi : i = .wrreg f) (hx : NUM.isNaN ⟨f.arg⟩ = false) :
      CommandEffect i s (State.answer { s with snrThreshold := ⟨f.arg⟩ } 0)
  | contextLeft {v : Nat} {c : Context} {result : Result} {reason : Reason} (hi : addressed i = some v)
      (hv : v < s.numVs) (hc : ContextEffect i s v c result reason) :
      CommandEffect i s ((s.setCtx v c).respond result reason 0)

theorem CommandEffect.rejected {i : Instr} {s : State} {reason : Reason} (hr : pairLegal .reject reason = true) :
    CommandEffect i s (s.reject reason) :=
  .responded (by simpa [Response.legal] using hr) nofun

theorem CommandEffect.answered {i : Instr} {s : State} (data : BitVec 64) : CommandEffect i s (s.answer data) :=
  .responded rfl nofun

theorem pairLegal_of_regAccessError {s : State} {f : CmdFields} {r : RegId} {reason : Reason}
    (h : regAccessError s f r = some reason) : pairLegal .reject reason = true := by
  unfold regAccessError at h
  split_ifs at h <;> cases h <;> rfl

theorem nopState_effect (i : Instr) (f : CmdFields) (s : State) : CommandEffect i s (nopState f s) := by
  rcases nopState_cases f s with h | h <;> rw [h]
  · exact .rejected rfl
  · exact .answered 0

theorem resetState_effect (f : CmdFields) (s : State) : CommandEffect (.reset f) s (resetState f s) := by
  rcases resetState_cases f s with h | h <;> rw [h]
  · exact .rejected rfl
  · exact .cleared rfl

theorem vsresetState_effect (f : CmdFields) (s : State) : CommandEffect (.vsreset f) s (vsresetState f s) := by
  unfold vsresetState
  split_ifs with hfields hvs
  · exact .rejected rfl
  · exact .rejected rfl
  · exact .contextLeft rfl (Nat.lt_of_not_le hvs) (.restarted rfl rfl)

/-- A legal write of a register. -/
theorem writeReg_effect {f : CmdFields} {s : State} {r : RegId} (hr : regOfNumber f.imm = some r)
    (hacc : regAccessError s f r = none) (hro : r.isReadOnly = false) (hx : r.legalValue f.arg = true) :
    CommandEffect (.wrreg f) s ((s.writeReg r (vsOf f) f.arg).answer 0) := by
  have hv := (regAccessError_none s f r).mp hacc
  rcases writeReg_cases s r (vsOf f) f.arg hro with ⟨rfl, h⟩ | ⟨rfl, h⟩ | ⟨rfl, h⟩ | ⟨rfl, h⟩ <;> rw [h]
  · exact .ctrlWritten rfl hx
  · exact .thresholdWritten rfl (by simpa [RegId.legalValue] using hx)
  · exact .contextLeft (by simp [addressed, hr, RegId.isGlobal]) (hv.2 rfl) (.offsetWritten rfl hx)
  · exact .contextLeft (by simp [addressed, hr, RegId.isGlobal]) (hv.2 rfl)
      (.limitWritten rfl (by simpa [RegId.legalValue] using hx))

theorem wrregState_effect (f : CmdFields) (s : State) : CommandEffect (.wrreg f) s (wrregState f s) := by
  unfold wrregState
  split
  next => exact .rejected rfl
  split
  next => exact .rejected rfl
  next r hr =>
    split
    next reason hacc => exact .rejected (pairLegal_of_regAccessError hacc)
    next hacc =>
      split_ifs with hro hx
      · exact .rejected rfl
      · exact .rejected rfl
      · exact writeReg_effect hr hacc (by simpa using hro) (by simpa using hx)

theorem rdregState_effect (i : Instr) (f : CmdFields) (s : State) : CommandEffect i s (rdregState f s) := by
  unfold rdregState
  split
  next => exact .rejected rfl
  split
  next => exact .rejected rfl
  next r hr =>
    split
    next reason hacc => exact .rejected (pairLegal_of_regAccessError hacc)
    next => exact .answered _

theorem rdoutState_effect (i : Instr) (f : CmdFields) (s : State) : CommandEffect i s (rdoutState f s) := by
  unfold rdoutState
  split_ifs
  case neg => exact .answered _
  all_goals exact .rejected rfl

theorem rddescState_effect (i : Instr) (f : CmdFields) (s : State) : CommandEffect i s (rddescState f s) := by
  unfold rddescState
  split_ifs
  case neg => exact .answered _
  all_goals exact .rejected rfl

theorem wrmaskState_effect (f : CmdFields) (s : State) : CommandEffect (.wrmask f) s (wrmaskState f s) := by
  unfold wrmaskState
  split_ifs with hfields hvs hpixel
  · exact .rejected rfl
  · exact .rejected rfl
  · exact .rejected rfl
  · exact .contextLeft rfl (by omega) (.maskWritten rfl (by omega) (by omega))

theorem rdmaskState_effect (i : Instr) (f : CmdFields) (s : State) : CommandEffect i s (rdmaskState f s) := by
  unfold rdmaskState
  split_ifs
  case neg => exact .answered _
  all_goals exact .rejected rfl

/-- The end of an attributed ROI command leaves what the sequence left. -/
theorem finishRoi_effect {f : CmdFields} {record : List Word} {s : State} {o : RoiOutcome}
    (hv : (headerOf record).vsid.toNat < s.numVs)
    (ho : RoiEffect s.params s.ctrl s.snrThreshold (s.ctx (headerOf record).vsid.toNat) o) :
    CommandEffect (.roi f record) s (s.finishRoi (headerOf record).vsid.toNat o) :=
  .contextLeft rfl hv (.assembled rfl ho)

theorem roiState_effect (f : CmdFields) (record : List Word) (s : State) :
    CommandEffect (.roi f record) s (roiState f record s) := by
  rcases roiState_cases f record s with h | ⟨reason, hval, h⟩ | ⟨v, reason, hval, h⟩ | ⟨v, roi, hval, h⟩ <;> rw [h]
  · exact .rejected rfl
  · refine .responded ?_ fun _ => ⟨f, record, rfl, hval⟩
    rcases validate_unattributed hval with ⟨-, rfl⟩ | ⟨-, -, rfl⟩ <;> rfl
  · obtain ⟨-, hv, rfl, hfault⟩ := validate_malformed hval
    exact finishRoi_effect hv (.malformed (pairLegal_of_headerFault hfault))
  · obtain ⟨-, hv, rfl, -, -, hroi⟩ := validate_valid hval
    exact finishRoi_effect hv (sequenceRoi_effect s.ctrl s.snrThreshold _ hroi)

/-- Everything a command can leave. -/
theorem exec_effect {i : Instr} {s t : State} (h : exec i s = .next t) : CommandEffect i s t := by
  cases i with
  | nop f => cases h; exact nopState_effect _ f s
  | reset f => cases h; exact resetState_effect f s
  | vsreset f => cases h; exact vsresetState_effect f s
  | wrreg f => cases h; exact wrregState_effect f s
  | rdreg f => cases h; exact rdregState_effect _ f s
  | roi f record => cases h; exact roiState_effect f record s
  | rdout f => cases h; exact rdoutState_effect _ f s
  | rddesc f => cases h; exact rddescState_effect _ f s
  | wrmask f => cases h; exact wrmaskState_effect f s
  | rdmask f => cases h; exact rdmaskState_effect _ f s

/-- A step waits, refuses a reserved opcode, or executes a command on the state whose stream is what follows it. -/
theorem step_effect {s t : State} (h : step s = .next t) :
    t = s ∨ ∃ rest, t = State.reject { s with stream := rest } .badOpcode ∨
      ∃ i, CommandEffect i { s with stream := rest } t := by
  unfold step at h
  split at h
  next => cases h; exact .inl rfl
  next rest _ => cases h; exact .inr ⟨rest, .inl rfl⟩
  next i rest _ => exact .inr ⟨rest, .inr ⟨i, exec_effect h⟩⟩

end Sys2Proof.Machine
end

section
/-! PROOF LAYER for 10_state.md, continued. What the conditioner and the assembler change of a context. -/

namespace Sys2Proof.Machine

/-- What the conditioner emits: the ROI itself, the merge of the held one with its retake, or the held one in exchange
for the ROI (41_roi_conditioner.md R201, R203, R204). -/
theorem condition_emitted_cases {p : Params} {ctrl : BitVec 32} {c c₁ : Context} {roi out : RoiRecord}
    (h : condition p ctrl c roi = .emitted c₁ out) :
    (c₁ = c ∧ out = roi) ∨
      (∃ held, c.hdrPrev = some held ∧ c₁ = { c with hdrCorrected := true } ∧
        out.header = headerOfMerge held.header roi.header) ∨
      ∃ held, c.hdrPrev = some held ∧ roi.header.mode = .stripe ∧ c₁ = { c with hdrPrev := some roi } ∧ out = held := by
  rcases condition_cases p ctrl c roi with
    ⟨-, h'⟩ | ⟨-, -, h'⟩ | ⟨held, -, hp, -, -, h'⟩ | ⟨held, hact, hp, -, -, h'⟩ <;> rw [h'] at h
  · cases h
    exact .inl ⟨rfl, rfl⟩
  · cases h
  · rcases mergeRetake_cases p.satThresh c held roi with ⟨-, hm⟩ | ⟨-, hm⟩ <;> rw [hm] at h <;> cases h
    exact .inr (.inl ⟨held, hp, rfl, rfl⟩)
  · cases h
    exact .inr (.inr ⟨_, hp, mode_of_hdrActive hact, rfl, rfl⟩)

/-- The conditioner changes at most the delay line. -/
theorem condition_emitted_frame {p : Params} {ctrl : BitVec 32} {c c₁ : Context} {roi out : RoiRecord}
    (h : condition p ctrl c roi = .emitted c₁ out) :
    c₁ = { c with hdrPrev := c₁.hdrPrev, hdrCorrected := c₁.hdrCorrected } := by
  rcases condition_emitted_cases h with ⟨rfl, -⟩ | ⟨held, -, rfl, -⟩ | ⟨held, -, -, rfl, -⟩ <;> rfl

/-- What every row start and every vote keeps, `gridAccumulate` keeps (42_frame_assembler.md R223). The descriptor does
not change under way. -/
theorem gridAccumulate_induction {P : Context → Prop} {c : Context} {e : RoiView} (hc : P c)
    (hrow : ∀ c' i, i < e.header.rows → P c' →
      P { c' with active := Memory.write false c'.active (frameRow c.fd e.header i) true })
    (hpixel : ∀ c' i col, i < e.header.rows → col < c.fd.winNcols.toNat → P c' →
      P (votePixel e i (frameRow c.fd e.header i) c' col)) : P (gridAccumulate c e) := by
  have rows : (gridAccumulate c e).fd = c.fd ∧ P (gridAccumulate c e) := by
    refine List.foldlRecOn (motive := fun c' => c'.fd = c.fd ∧ P c') _ _ ⟨rfl, hc⟩ fun c₁ ⟨hfd, h₁⟩ i hi => ?_
    rw [List.mem_range] at hi
    have row : voteRow e c₁ i = (List.range c.fd.winNcols.toNat).foldl (votePixel e i (frameRow c.fd e.header i))
        { c₁ with active := Memory.write false c₁.active (frameRow c.fd e.header i) true } := by
      rw [voteRow, hfd]
    rw [row]
    refine List.foldlRecOn (motive := fun c' => c'.fd = c.fd ∧ P c') _ _ ⟨hfd, hrow c₁ i hi h₁⟩
      fun c₂ ⟨hfd₂, h₂⟩ col hcol => ⟨?_, hpixel c₂ i col hi (List.mem_range.mp hcol) h₂⟩
    rw [votePixel_frame]
    exact hfd₂
  exact rows.2

/-- Assembling in grid mode changes at most the four buffers of that mode. -/
theorem gridAccumulate_frame (c : Context) (e : RoiView) :
    gridAccumulate c e =
      { c with
        active := (gridAccumulate c e).active, raw0 := (gridAccumulate c e).raw0
        raw1 := (gridAccumulate c e).raw1, vote := (gridAccumulate c e).vote } := by
  refine gridAccumulate_induction
    (P := fun c' => c' = { c with active := c'.active, raw0 := c'.raw0, raw1 := c'.raw1, vote := c'.vote })
    rfl (fun c' i _ h => ?_) fun c' i col _ _ h => ?_
  · rw [h]
  · rw [votePixel_frame, h]

end Sys2Proof.Machine
end

section
/-! PROOF of O51. A command leaves the virtual sensors it does not address as they were (10_state.md R53, R38). -/

namespace Sys2Proof.Machine

theorem CommandEffect.device_unchanged {i : Instr} {s t : State} (h : CommandEffect i s t) :
    t.params = s.params ∧ t.ctxs.length = s.ctxs.length ∧ t.stream = s.stream := by
  cases h with
  | responded | ctrlWritten | thresholdWritten => exact ⟨rfl, rfl, rfl⟩
  | cleared => exact ⟨rfl, by simp, rfl⟩
  | contextLeft => exact ⟨rfl, by simp, rfl⟩

theorem CommandEffect.other_unchanged {i : Instr} {s t : State} (h : CommandEffect i s t) {w : Nat}
    (hw : addressed i ≠ some w) (hreset : ∀ f, i ≠ .reset f) : t.ctxs[w]? = s.ctxs[w]? := by
  cases h with
  | responded | ctrlWritten | thresholdWritten => rfl
  | cleared hi => exact absurd hi (hreset _)
  | @contextLeft v c _ _ hi _ _ =>
    have hne : v ≠ w := fun heq => hw (heq ▸ hi)
    simp [List.getElem?_set_ne hne]

/-- Settles O51. -/
theorem otherSensorsUntouched : Obligations.OtherSensorsUntouched := by
  intro i s t h
  have heff := exec_effect h
  obtain ⟨hparams, hlen, hstream⟩ := heff.device_unchanged
  exact ⟨hparams, hlen, hstream, fun w hw hreset => heff.other_unchanged hw hreset⟩

end Sys2Proof.Machine
end

section
/-! PROOF of O53. `fatal_sticky` (10_state.md R50). -/

namespace Sys2Proof.Machine

theorem JoinsFrame.fatalSticky {c c₁ : Context} {h : RoiHeader} (hj : JoinsFrame c h c₁) :
    c₁.fatalSticky = c.fatalSticky := by
  cases hj <;> rfl

theorem Accumulates.fatalSticky {p : Params} {ctrl : BitVec 32} {c c₁ : Context} {e : RoiView}
    (ha : Accumulates p ctrl c e c₁) : c₁.fatalSticky = c.fatalSticky := by
  cases ha with
  | grid => rw [gridAccumulate_frame]
  | stripe _ ha =>
    rcases stripeAccumulate_cases p ctrl c e with ⟨-, h⟩ | ⟨-, _, _, _, h⟩ <;> rw [h] at ha <;> cases ha
    rfl

/-- The sequence sets `fatal_sticky` when it answers FATAL, and only then. -/
theorem FrameEffect.fatalSticky {p : Params} {ctrl : BitVec 32} {thr : NUM} {c : Context} {e : RoiView} {o : RoiOutcome}
    (ho : FrameEffect p ctrl thr c e o) : o.ctx.fatalSticky = (c.fatalSticky || o.result == .fatal) := by
  cases ho with
  | skipped => exact (Bool.or_false _).symm
  | mismatched | overflowed => exact (Bool.or_true _).symm
  | kept hj ha => exact (ha.fatalSticky.trans hj.fatalSticky).trans (Bool.or_false _).symm
  | emitted hj ha =>
    rw [framePipeline_fatalSticky, ha.fatalSticky, hj.fatalSticky]
    exact (Bool.or_false _).symm

theorem RoiEffect.fatalSticky {p : Params} {ctrl : BitVec 32} {thr : NUM} {c : Context} {o : RoiOutcome}
    (ho : RoiEffect p ctrl thr c o) : o.ctx.fatalSticky = (c.fatalSticky || o.result == .fatal) := by
  cases ho with
  | malformed => exact (Bool.or_true _).symm
  | stored => exact (Bool.or_false _).symm
  | conditioned _ hc ho => rw [ho.fatalSticky, condition_emitted_frame hc]

/-- An accepted command sets `fatal_sticky` of the addressed virtual sensor when it answers FATAL, and only VSRESET
clears it. -/
theorem ContextEffect.fatalSticky {i : Instr} {s : State} {v : Nat} {c : Context} {result : Result} {reason : Reason}
    (h : ContextEffect i s v c result reason) :
    (∃ f, i = .vsreset f ∧ vsOf f = v ∧ c.fatalSticky = false) ∨
      c.fatalSticky = ((s.ctx v).fatalSticky || result == .fatal) := by
  cases h with
  | restarted hi hf => exact .inl ⟨_, hi, hf, rfl⟩
  | offsetWritten | limitWritten | maskWritten => exact .inr (Bool.or_false _).symm
  | assembled _ ho => exact .inr ho.fatalSticky

/-- What becomes of one context: RESET clears it, the command was answered without it, or the command addressed it. -/
theorem CommandEffect.context_cases {i : Instr} {s t : State} {v : Nat} {c c' : Context} (h : CommandEffect i s t)
    (hc : s.ctxs[v]? = some c) (hc' : t.ctxs[v]? = some c') :
    (∃ f, i = .reset f ∧ c' = Context.reset) ∨
      ∃ r, t.resp = some r ∧
        ((c' = c ∧ (r.result = .fatal → addressed i = some v → ∃ f record, i = .roi f record ∧ record.length < 12)) ∨
          (addressed i = some v ∧ ContextEffect i s v c' r.result r.reason)) := by
  have hv := State.lt_of_getElem? hc
  cases h with
  | responded _ hf =>
    refine .inr ⟨_, rfl, .inl ⟨Option.some.inj (hc'.symm.trans hc), fun hfatal ha => ?_⟩⟩
    obtain ⟨f, record, rfl, hval⟩ := hf hfatal
    refine ⟨f, record, rfl, ?_⟩
    have hvs : (headerOf record).vsid.toNat = v := Option.some.inj ha
    rcases validate_unattributed hval with ⟨hlen, -⟩ | ⟨-, hge, -⟩
    · exact hlen
    · omega
  | cleared hi =>
    obtain ⟨-, rfl⟩ : v < s.ctxs.length ∧ Context.reset = c' := by simpa [List.getElem?_replicate] using hc'
    exact .inl ⟨_, hi, rfl⟩
  | ctrlWritten | thresholdWritten => exact .inr ⟨_, rfl, .inl ⟨Option.some.inj (hc'.symm.trans hc), nofun⟩⟩
  | @contextLeft w cw result _ hi _ heff =>
    refine .inr ⟨_, rfl, ?_⟩
    rw [State.respond_ctxs, State.setCtx_ctxs] at hc'
    by_cases hw : w = v
    · subst hw
      rw [List.getElem?_set_self hv] at hc'
      cases hc'
      exact .inr ⟨hi, heff⟩
    · rw [List.getElem?_set_ne hw] at hc'
      exact .inl ⟨Option.some.inj (hc'.symm.trans hc), fun _ ha => absurd (Option.some.inj (hi.symm.trans ha)) hw⟩

/-- Settles O53. -/
theorem fatalStickyIsSticky : Obligations.FatalStickyIsSticky := by
  intro i s t v c c' hexec hc hc'
  rcases (exec_effect hexec).context_cases hc hc' with ⟨f, rfl, rfl⟩ | ⟨r, hresp, ⟨rfl, hshort⟩ | ⟨haddr, heff⟩⟩
  · exact ⟨fun _ hne => absurd rfl (hne f), nofun, nofun⟩
  · refine ⟨fun h _ _ => h, fun h h' => absurd (h.symm.trans h') (by decide), ?_⟩
    rintro f record r' rfl hlen ha hr' hfatal
    obtain rfl : r = r' := Option.some.inj (hresp.symm.trans hr')
    obtain ⟨f', record', hi, hlt⟩ := hshort hfatal ha
    cases hi
    omega
  · rw [← State.ctx_of_getElem? hc]
    rcases heff.fatalSticky with ⟨f, rfl, hf, hclear⟩ | hset
    · exact ⟨fun _ _ hne => absurd hf (hne f rfl), fun _ h' => absurd (hclear.symm.trans h') (by decide), nofun⟩
    · refine ⟨fun h _ _ => by rw [hset, h, Bool.true_or], fun h h' => ⟨r, hresp, ?_, haddr⟩, ?_⟩
      · rwa [hset, h, Bool.false_or, beq_iff_eq] at h'
      · rintro f record r' - - - hr' hfatal
        obtain rfl : r = r' := Option.some.inj (hresp.symm.trans hr')
        rw [hset, hfatal]
        exact Bool.or_true _

end Sys2Proof.Machine
end

section
/-! PROOF LAYER for 10_state.md, continued. The clauses of `State.inv` as propositions, the stored maps grouped by who
writes them: the grid buffers, the stripe buffers, the outputs and the mask. -/

namespace Sys2Proof

/-- A write lists no index but those listed before and its own. -/
theorem Memory.forall_write {α : Type} [DecidableEq α] {d : α} {m : Memory α} {P : Nat → Prop} {k : Nat} (v : α)
    (hm : ∀ e ∈ m, P e.1) (hk : P k) : ∀ e ∈ Memory.write d m k v, P e.1 := by
  induction m with
  | nil => by_cases hv : v = d <;> simp [Memory.write, hv, hk]
  | cons e rest ih =>
    obtain ⟨k', v'⟩ := e
    obtain ⟨hk', hrest⟩ := List.forall_mem_cons.mp hm
    unfold Memory.write
    split_ifs
    · exact hm
    · exact List.forall_mem_cons.mpr ⟨hk, hm⟩
    · exact hrest
    · exact List.forall_mem_cons.mpr ⟨hk, hrest⟩
    · exact List.forall_mem_cons.mpr ⟨hk', ih hrest⟩

theorem Memory.forall_writeRow {α : Type} [DecidableEq α] {d : α} {m : Memory α} {P : Nat → Prop} {r w : Nat}
    (f : Nat → α) (hm : ∀ e ∈ m, P e.1) (hP : ∀ c < w, P (pixKey r c)) : ∀ e ∈ Memory.writeRow d m r w f, P e.1 :=
  List.foldlRecOn (motive := fun m : Memory α => ∀ e ∈ m, P e.1) _ _ hm fun _ hacc c hc =>
    Memory.forall_write _ hacc (hP c (List.mem_range.mp hc))

theorem Memory.forall_ofPixels {α : Type} [DecidableEq α] {d : α} {P : Nat → Prop} {h w : Nat} (f : Nat → Nat → α)
    (hP : ∀ r < h, ∀ c < w, P (pixKey r c)) : ∀ e ∈ Memory.ofPixels d h w f, P e.1 :=
  List.foldlRecOn (motive := fun m : Memory α => ∀ e ∈ m, P e.1) _ _ nofun fun _ hacc r hr =>
    Memory.forall_writeRow _ hacc (hP r (List.mem_range.mp hr))

/-- `k` is the index of a pixel inside `rows` rows and `cols` columns. -/
def IsPixelIndex (rows cols k : Nat) : Prop := k / 2 ^ 32 < rows ∧ k % 2 ^ 32 < cols

theorem isPixelIndex_pixKey {rows cols r c : Nat} (hcols : cols < 65536) (hr : r < rows) (hc : c < cols) :
    IsPixelIndex rows cols (pixKey r c) := by
  rw [IsPixelIndex, pixKey_div (by omega), pixKey_mod (by omega)]
  exact ⟨hr, hc⟩

theorem Memory.inside_iff {α : Type} {rows cols : Nat} {m : Memory α} :
    Memory.inside rows cols m = true ↔ ∀ e ∈ m, IsPixelIndex rows cols e.1 := by
  simp [Memory.inside, IsPixelIndex]

theorem Memory.below_iff {α : Type} {rows : Nat} {m : Memory α} :
    Memory.below rows m = true ↔ ∀ e ∈ m, e.1 < rows := by
  simp [Memory.below]

section
variable {α : Type} [DecidableEq α] {d : α} {m : Memory α} {rows cols r c : Nat}

/-- A write at a pixel of the block stays inside it. -/
theorem Memory.inside_write (v : α) (hcols : cols < 65536) (hm : Memory.inside rows cols m = true) (hr : r < rows)
    (hc : c < cols) : Memory.inside rows cols (Memory.write d m (pixKey r c) v) = true :=
  Memory.inside_iff.mpr (Memory.forall_write v (Memory.inside_iff.mp hm) (isPixelIndex_pixKey hcols hr hc))

theorem Memory.inside_writeRow {w : Nat} (f : Nat → α) (hcols : cols < 65536)
    (hm : Memory.inside rows cols m = true) (hr : r < rows) (hw : w ≤ cols) :
    Memory.inside rows cols (Memory.writeRow d m r w f) = true :=
  Memory.inside_iff.mpr (Memory.forall_writeRow f (Memory.inside_iff.mp hm) fun _ hc =>
    isPixelIndex_pixKey hcols hr (by omega))

theorem Memory.inside_ofPixels (f : Nat → Nat → α) (hcols : cols < 65536) :
    Memory.inside rows cols (Memory.ofPixels d rows cols f) = true :=
  Memory.inside_iff.mpr (Memory.forall_ofPixels f fun _ hr _ hc => isPixelIndex_pixKey hcols hr hc)

theorem Memory.below_write {k : Nat} (v : α) (hm : Memory.below rows m = true) (hk : k < rows) :
    Memory.below rows (Memory.write d m k v) = true :=
  Memory.below_iff.mpr (Memory.forall_write (P := fun k => k < rows) v (Memory.below_iff.mp hm) hk)

end

namespace Machine

theorem Context.memoryCanonical_iff {c : Context} :
    c.memoryCanonical = true ↔
      (Memory.wf false c.active = true ∧ Memory.wf Taps.zero c.raw0 = true ∧ Memory.wf Taps.zero c.raw1 = true ∧
        Memory.wf NUM.negInf c.vote = true) ∧
      (Memory.wf Taps.zero c.srow0 = true ∧ Memory.wf Taps.zero c.srow1 = true ∧ Memory.wf NUM.zero c.snorm = true) ∧
      (Memory.wf 0 c.outRange = true ∧ Memory.wf 0 c.outSignal = true ∧ Memory.wf 0 c.outBackground = true ∧
        Memory.wf 0 c.outSnr = true) ∧
      Memory.wf true c.pmask = true := by
  simp only [Context.memoryCanonical, Bool.and_eq_true, and_assoc]

theorem Context.memoryInside_iff {p : Params} {c : Context} :
    c.memoryInside p = true ↔
      (Memory.below p.maxRows.val c.active = true ∧ Memory.inside p.maxRows.val p.maxCols.val c.raw0 = true ∧
        Memory.inside p.maxRows.val p.maxCols.val c.raw1 = true ∧
        Memory.inside p.maxRows.val p.maxCols.val c.vote = true) ∧
      (Memory.inside p.maxRows.val p.maxCols.val c.srow0 = true ∧
        Memory.inside p.maxRows.val p.maxCols.val c.srow1 = true ∧
        Memory.inside p.maxRows.val p.maxCols.val c.snorm = true) ∧
      (Memory.inside c.desc.outRows.toNat c.desc.outCols.toNat c.outRange = true ∧
        Memory.inside c.desc.outRows.toNat c.desc.outCols.toNat c.outSignal = true ∧
        Memory.inside c.desc.outRows.toNat c.desc.outCols.toNat c.outBackground = true ∧
        Memory.inside c.desc.outRows.toNat c.desc.outCols.toNat c.outSnr = true) ∧
      Memory.inside p.maxRows.val p.maxCols.val c.pmask = true := by
  simp only [Context.memoryInside, Bool.and_eq_true, and_assoc]

theorem Context.registersLegal_iff {p : Params} {c : Context} :
    c.registersLegal p = true ↔
      (c.rangeOffset.isFinite = true ∧ c.rangeLimit.isNaN = false) ∧ c.stripeCount ≤ p.maxRows.val ∧
      (c.desc.outRows.toNat ≤ p.maxRows.val ∧ c.desc.outCols.toNat ≤ p.maxCols.val) ∧
      (c.lastResult ≠ .reject ∧ pairLegal c.lastResult c.lastReason = true) ∧
      (c.hasOutput = true ∨ c.frameCount = 0 ∧ c.desc = Descriptor.reset) := by
  simp [Context.registersLegal, and_assoc]

theorem Context.delayLineLegal_iff {p : Params} {c : Context} :
    c.delayLineLegal p = true ↔
      (c.hdrPrev = none → c.hdrCorrected = false) ∧
      ∀ roi, c.hdrPrev = some roi → RoiRecord.legal p roi = true ∧ roi.header.mode = .stripe := by
  unfold Context.delayLineLegal
  cases c.hdrPrev <;> simp

theorem Context.frameLegal_iff {p : Params} {c : Context} :
    c.frameLegal p = true ↔
      (c.frameOpen = true → FrameDesc.legal p c.fd = true) ∧
      (c.fd.mode = .grid → c.stripeCount = 0 ∧ c.srow0 = [] ∧ c.srow1 = [] ∧ c.snorm = []) ∧
      (c.fd.mode = .stripe → c.active = [] ∧ c.raw0 = [] ∧ c.raw1 = [] ∧ c.vote = []) := by
  unfold Context.frameLegal
  cases c.fd.mode <;> cases c.frameOpen <;> simp [and_assoc]

theorem Context.inv_iff {p : Params} {c : Context} :
    c.inv p = true ↔
      c.memoryCanonical = true ∧ c.memoryInside p = true ∧ c.registersLegal p = true ∧ c.delayLineLegal p = true ∧
      c.frameLegal p = true := by
  simp only [Context.inv, Bool.and_eq_true, and_assoc]

theorem State.memoryCanonical_iff {s : State} :
    s.memoryCanonical = true ↔ ∀ c ∈ s.ctxs, c.memoryCanonical = true := List.all_eq_true

theorem State.inv_iff {s : State} :
    s.inv = true ↔
      ctrlLegal (s.ctrl.setWidth 64) = true ∧ s.snrThreshold.isNaN = false ∧
      (∀ c ∈ s.ctxs, c.inv s.params = true) ∧ s.resp.all Response.legal = true := by
  simp only [State.inv, Bool.and_eq_true, Bool.not_eq_true', List.all_eq_true, and_assoc]

end Machine

end Sys2Proof
end

section
/-! PROOF of O11 and O60. The state after reset (10_state.md R54). -/

namespace Sys2Proof.Machine

/-- RESET with every field zero leaves the power-on state of its device, but for the response and the words not yet
read. -/
theorem exec_reset_accepted {f : CmdFields} (s : State) (hvs : f.vs = 0) (hsel : f.sel = 0) (himm : f.imm = 0)
    (harg : f.arg = 0) : exec (.reset f) s = .next (s.resetAll.answer 0) := by
  simp [exec_reset, resetState, hvs, hsel, himm, harg]

theorem State.eq_reset_of_mem_powerOn {p : Params} {n : Nat} {c : Context} (h : c ∈ (State.powerOn p n).ctxs) :
    c = Context.reset :=
  List.eq_of_mem_replicate h

/-- Settles O11: every context is `Context.reset`, whose maps list nothing. -/
theorem resetValues : Obligations.ResetValues := by
  refine ⟨fun f s hvs hsel himm harg => exec_reset_accepted s hvs hsel himm harg, fun p n =>
    ⟨rfl, rfl, rfl, List.length_replicate, fun c hc => ?_⟩⟩
  rw [State.eq_reset_of_mem_powerOn hc]
  refine ⟨rfl, rfl, rfl, by decide, rfl, rfl, rfl, rfl, rfl, rfl, rfl, rfl, rfl, rfl, fun k => ?_⟩
  exact ⟨rfl, rfl, rfl, rfl, rfl, rfl, rfl, rfl, rfl, rfl, rfl, rfl⟩

theorem Context.reset_inv (p : Params) : Context.reset.inv p = true := by
  refine Context.inv_iff.mpr ⟨Context.reset_memoryCanonical, rfl, Context.registersLegal_iff.mpr ?_, rfl, rfl⟩
  exact ⟨by decide, Nat.zero_le _, ⟨Nat.zero_le _, Nat.zero_le _⟩, by decide, .inr ⟨rfl, rfl⟩⟩

theorem State.powerOn_inv (p : Params) (n : Nat) : (State.powerOn p n).inv = true :=
  State.inv_iff.mpr ⟨by simp [State.powerOn, ctrlLegal], by simp [State.powerOn, NUM.isNaN],
    fun _ hc => State.eq_reset_of_mem_powerOn hc ▸ Context.reset_inv p, rfl⟩

/-- Settles O60. -/
theorem resetSatisfiesInvariant : Obligations.ResetSatisfiesInvariant :=
  ⟨State.powerOn_inv, State.powerOn_inv _ _⟩

end Sys2Proof.Machine
end

section
/-! PROOF LAYER for 10_state.md, continued. The shared operations, each as one record update, and the rule that carries
a property of contexts from a state to the next. -/

namespace Sys2Proof.Machine

/-- A vote is lost, or writes one pixel of the three maps (42_frame_assembler.md R223). -/
theorem votePixel_cases (e : RoiView) (i r : Nat) (c : Context) (col : Nat) :
    votePixel e i r c col = c ∨
      ∃ q t0 t1, votePixel e i r c col =
        { c with
          vote := Memory.write NUM.negInf c.vote (pixKey r col) q
          raw0 := Memory.write Taps.zero c.raw0 (pixKey r col) t0
          raw1 := Memory.write Taps.zero c.raw1 (pixKey r col) t1 } := by
  unfold votePixel
  simp only []
  split
  · exact .inr ⟨_, _, _, rfl⟩
  · exact .inl rfl

/-- The frame pipeline writes the four output maps and the descriptor of the frame's size, and closes the frame
(40_commands.md R160, R161). -/
theorem framePipeline_eq (p : Params) (ctrl : BitVec 32) (thr : NUM) (c : Context) :
    ∃ range signal background snr, framePipeline p ctrl thr c =
      { c with
        outRange := Memory.ofPixels 0 (finalRaw c).h (finalRaw c).w range
        outSignal := Memory.ofPixels 0 (finalRaw c).h (finalRaw c).w signal
        outBackground := Memory.ofPixels 0 (finalRaw c).h (finalRaw c).w background
        outSnr := Memory.ofPixels 0 (finalRaw c).h (finalRaw c).w snr
        desc := descriptorOf c.fd (finalRaw c).h (finalRaw c).w
        hasOutput := true
        frameCount := c.frameCount + 1
        frameOpen := false } :=
  ⟨_, _, _, _, rfl⟩

/-- A property of every context holds after a command when it holds of a reset context and the command keeps it in the
context it addresses. -/
theorem CommandEffect.forall_ctxs {i : Instr} {s t : State} {P : Context → Prop} (h : CommandEffect i s t)
    (hs : ∀ c ∈ s.ctxs, P c) (hreset : P Context.reset)
    (hkeep : ∀ {v c result reason}, P (s.ctx v) → ContextEffect i s v c result reason → P c) : ∀ c ∈ t.ctxs, P c := by
  cases h with
  | responded | ctrlWritten | thresholdWritten => exact hs
  | cleared =>
    intro c hc
    obtain rfl := List.eq_of_mem_replicate (State.resetAll_ctxs s ▸ hc)
    exact hreset
  | contextLeft _ hv heff =>
    intro c hc
    rcases List.mem_or_eq_of_mem_set hc with hc | rfl
    · exact hs c hc
    · exact hkeep (hs _ (List.mem_of_getElem? (State.getElem?_of_lt hv))) heff

end Sys2Proof.Machine
end

section
/-! PROOF of O58. The stored maps stay canonical (10_state.md R44 to R49, log entry 7). -/

namespace Sys2Proof.Machine

theorem openFrame_memoryCanonical {c : Context} {h : RoiHeader} (hc : c.memoryCanonical = true) :
    (openFrame c h).memoryCanonical = true := by
  obtain ⟨-, -, hout, hmask⟩ := Context.memoryCanonical_iff.mp hc
  exact Context.memoryCanonical_iff.mpr ⟨⟨rfl, rfl, rfl, rfl⟩, ⟨rfl, rfl, rfl⟩, hout, hmask⟩

theorem restart_memoryCanonical {c : Context} (hc : c.memoryCanonical = true) : c.restart.memoryCanonical = true := by
  obtain ⟨-, -, hout, hmask⟩ := Context.memoryCanonical_iff.mp hc
  exact Context.memoryCanonical_iff.mpr ⟨⟨rfl, rfl, rfl, rfl⟩, ⟨rfl, rfl, rfl⟩, hout, hmask⟩

theorem setMaskBit_memoryCanonical {c : Context} {row col : Nat} {b : Bool} (hc : c.memoryCanonical = true) :
    (c.setMaskBit row col b).memoryCanonical = true := by
  obtain ⟨hgrid, hstripe, hout, hmask⟩ := Context.memoryCanonical_iff.mp hc
  exact Context.memoryCanonical_iff.mpr ⟨hgrid, hstripe, hout, Memory.wf_write _ _ hmask⟩

theorem gridAccumulate_memoryCanonical {c : Context} {e : RoiView} (hc : c.memoryCanonical = true) :
    (gridAccumulate c e).memoryCanonical = true := by
  refine gridAccumulate_induction (P := fun c => c.memoryCanonical = true) hc (fun c' i _ h => ?_)
    fun c' i col _ _ h => ?_
  · obtain ⟨⟨hactive, hraw⟩, hrest⟩ := Context.memoryCanonical_iff.mp h
    exact Context.memoryCanonical_iff.mpr ⟨⟨Memory.wf_write _ _ hactive, hraw⟩, hrest⟩
  · obtain ⟨⟨hactive, hraw0, hraw1, hvote⟩, hrest⟩ := Context.memoryCanonical_iff.mp h
    rcases votePixel_cases e i (frameRow c.fd e.header i) c' col with heq | ⟨q, t0, t1, heq⟩ <;> rw [heq]
    · exact h
    · exact Context.memoryCanonical_iff.mpr
        ⟨⟨hactive, Memory.wf_write _ _ hraw0, Memory.wf_write _ _ hraw1, Memory.wf_write _ _ hvote⟩, hrest⟩

theorem Accumulates.memoryCanonical {p : Params} {ctrl : BitVec 32} {c c₁ : Context} {e : RoiView}
    (ha : Accumulates p ctrl c e c₁) (hc : c.memoryCanonical = true) : c₁.memoryCanonical = true := by
  cases ha with
  | grid => exact gridAccumulate_memoryCanonical hc
  | stripe _ ha =>
    rcases stripeAccumulate_cases p ctrl c e with ⟨-, h⟩ | ⟨-, _, _, _, h⟩ <;> rw [h] at ha <;> cases ha
    obtain ⟨hgrid, ⟨h0, h1, hn⟩, hrest⟩ := Context.memoryCanonical_iff.mp hc
    exact Context.memoryCanonical_iff.mpr
      ⟨hgrid, ⟨Memory.wf_writeRow _ _ _ h0, Memory.wf_writeRow _ _ _ h1, Memory.wf_writeRow _ _ _ hn⟩, hrest⟩

theorem framePipeline_memoryCanonical {p : Params} {ctrl : BitVec 32} {thr : NUM} {c : Context}
    (hc : c.memoryCanonical = true) : (framePipeline p ctrl thr c).memoryCanonical = true := by
  obtain ⟨hgrid, hstripe, -, hmask⟩ := Context.memoryCanonical_iff.mp hc
  obtain ⟨_, _, _, _, heq⟩ := framePipeline_eq p ctrl thr c
  rw [heq]
  exact Context.memoryCanonical_iff.mpr ⟨hgrid, hstripe, ⟨Memory.wf_ofPixels _ _ _, Memory.wf_ofPixels _ _ _,
    Memory.wf_ofPixels _ _ _, Memory.wf_ofPixels _ _ _⟩, hmask⟩

theorem JoinsFrame.memoryCanonical {c c₁ : Context} {h : RoiHeader} (hj : JoinsFrame c h c₁)
    (hc : c.memoryCanonical = true) : c₁.memoryCanonical = true := by
  cases hj with
  | opened => exact openFrame_memoryCanonical hc
  | joined => exact hc

theorem FrameEffect.memoryCanonical {p : Params} {ctrl : BitVec 32} {thr : NUM} {c : Context} {e : RoiView}
    {o : RoiOutcome} (ho : FrameEffect p ctrl thr c e o) (hc : c.memoryCanonical = true) :
    o.ctx.memoryCanonical = true := by
  cases ho with
  | skipped | mismatched => exact hc
  | overflowed hj => exact hj.memoryCanonical hc
  | kept hj ha => exact ha.memoryCanonical (hj.memoryCanonical hc)
  | emitted hj ha => exact framePipeline_memoryCanonical (ha.memoryCanonical (hj.memoryCanonical hc))

theorem RoiEffect.memoryCanonical {p : Params} {ctrl : BitVec 32} {thr : NUM} {c : Context} {o : RoiOutcome}
    (ho : RoiEffect p ctrl thr c o) (hc : c.memoryCanonical = true) : o.ctx.memoryCanonical = true := by
  cases ho with
  | malformed | stored => exact hc
  | conditioned _ hcond ho =>
    refine ho.memoryCanonical ?_
    rw [condition_emitted_frame hcond]
    exact hc

theorem ContextEffect.memoryCanonical {i : Instr} {s : State} {v : Nat} {c : Context} {result : Result}
    {reason : Reason} (h : ContextEffect i s v c result reason) (hc : (s.ctx v).memoryCanonical = true) :
    c.memoryCanonical = true := by
  cases h with
  | restarted => exact restart_memoryCanonical hc
  | offsetWritten | limitWritten => exact hc
  | maskWritten => exact setMaskBit_memoryCanonical hc
  | assembled _ ho => exact ho.memoryCanonical hc

/-- Settles O58, by the effects of a step: every write of a stored map keeps its form. -/
theorem stepKeepsMemoryCanonical : Obligations.StepKeepsMemoryCanonical := by
  intro s t hs h
  rcases step_effect h with rfl | ⟨rest, rfl | ⟨i, heff⟩⟩
  · exact hs
  · exact hs
  · exact State.memoryCanonical_iff.mpr (heff.forall_ctxs (State.memoryCanonical_iff.mp hs)
      Context.reset_memoryCanonical fun hc hctx => hctx.memoryCanonical hc)

end Sys2Proof.Machine
end

section
/-! PROOF of O59. Every step keeps `State.inv` (10_state.md R32 to R50, 30_encoding.md R106 to R108). -/

namespace Sys2Proof.Machine

/-! ### What validation gives the frame assembler -/

/-- Steps 5 to 7 of 40_commands.md R157: what the frame assembler rests on. -/
structure RoiHeader.Legal (p : Params) (h : RoiHeader) : Prop where
  bin : h.bin ≠ 0
  geometry : geometryLegal p h = true
  frequencies : frequenciesLegal h = true

theorem RoiRecord.header_legal {p : Params} {roi : RoiRecord} (h : RoiRecord.legal p roi = true) :
    roi.header.Legal p := by
  simp only [RoiRecord.legal, Bool.and_eq_true, bne_iff_ne] at h
  obtain ⟨⟨⟨⟨⟨-, hbin⟩, hgeo⟩, hfreq⟩, -⟩, -⟩ := h
  exact ⟨hbin, hgeo, hfreq⟩

/-- A merge keeps all of the held ROI's header but two flags (41_roi_conditioner.md R205). -/
theorem headerOfMerge_legal {p : Params} {held roi : RoiHeader} (h : held.Legal p) : (headerOfMerge held roi).Legal p :=
  ⟨h.bin, h.geometry, h.frequencies⟩

theorem geometryLegal_iff {p : Params} {h : RoiHeader} :
    geometryLegal p h = true ↔
      (1 ≤ h.winNrows.toNat ∧ h.winNrows.toNat ≤ p.maxRows.val) ∧ (1 ≤ h.cols ∧ h.cols ≤ p.maxCols.val) ∧
      (1 ≤ h.rows ∧ h.winRow0.toNat ≤ h.startRow.toNat ∧
        h.startRow.toNat + h.rows ≤ h.winRow0.toNat + h.winNrows.toNat) ∧
      1 ≤ h.cols / h.bin ∧ (h.mode = .stripe ∨ 1 ≤ h.winNrows.toNat / h.bin) := by
  simp only [geometryLegal, Bool.and_eq_true, Bool.or_eq_true, decide_eq_true_eq, beq_iff_eq]
  tauto

theorem frequenciesLegal_iff {h : RoiHeader} :
    frequenciesLegal h = true ↔
      (1 ≤ h.n0.toNat ∧ h.n1.toNat = h.n0.toNat + 1) ∧ h.freq0.isFinite = true ∧ NUM.one.le h.freq0 = true ∧
      h.freq1.isFinite = true ∧ h.freq0.lt h.freq1 = true := by
  simp only [frequenciesLegal, Bool.and_eq_true, decide_eq_true_eq, beq_iff_eq, and_assoc]

theorem FrameDesc.legal_iff {p : Params} {fd : FrameDesc} :
    FrameDesc.legal p fd = true ↔
      fd.bin ≠ 0 ∧ (1 ≤ fd.winNrows.toNat ∧ fd.winNrows.toNat ≤ p.maxRows.val) ∧
      (1 ≤ fd.winNcols.toNat ∧ fd.winNcols.toNat ≤ p.maxCols.val) ∧
      (1 ≤ fd.outCols ∧ (fd.mode = .stripe ∨ 1 ≤ fd.gridRows)) ∧
      (1 ≤ fd.n0.toNat ∧ fd.n1.toNat = fd.n0.toNat + 1) ∧ fd.f0.isFinite = true ∧ NUM.one.le fd.f0 = true ∧
      fd.f1.isFinite = true ∧ fd.f0.lt fd.f1 = true := by
  simp only [FrameDesc.legal, Bool.and_eq_true, Bool.or_eq_true, decide_eq_true_eq, bne_iff_ne, beq_iff_eq, and_assoc]

/-- The descriptor latched from a validated header is legal (42_frame_assembler.md R220). -/
theorem frameDescOf_legal {p : Params} {h : RoiHeader} (hh : h.Legal p) : FrameDesc.legal p (frameDescOf h) = true := by
  obtain ⟨hrows, hcols, -, hsize⟩ := geometryLegal_iff.mp hh.geometry
  have hbin : h.binning ≠ 0 := fun h0 => hh.bin (by simp [RoiHeader.bin, h0])
  exact FrameDesc.legal_iff.mpr ⟨hbin, hrows, hcols, hsize, frequenciesLegal_iff.mp hh.frequencies⟩

theorem frameMatch_frameDescOf (h : RoiHeader) : frameMatch (frameDescOf h) h = true :=
  frameMatch_iff.mpr ⟨rfl, rfl, rfl, rfl, rfl, rfl, rfl, rfl, rfl, rfl, fun _ => rfl⟩

/-- Every row of a ROI that matches the frame is a row of the block (42_frame_assembler.md R223). -/
theorem frameRow_lt {p : Params} {fd : FrameDesc} {h : RoiHeader} {i : Nat} (hh : h.Legal p)
    (hmatch : frameMatch fd h = true) (hi : i < h.rows) : frameRow fd h i < p.maxRows.val := by
  obtain ⟨⟨-, hmax⟩, -, ⟨-, hstart, hend⟩, -⟩ := geometryLegal_iff.mp hh.geometry
  obtain ⟨-, -, hwin, -⟩ := frameMatch_iff.mp hmatch
  rw [frameRow, ← hwin]
  omega

/-! ### What each shared operation keeps -/

section
variable {p : Params} {c : Context}

theorem restart_inv (hc : c.inv p = true) : c.restart.inv p = true := by
  obtain ⟨hcan, hin, hreg, -, -⟩ := Context.inv_iff.mp hc
  obtain ⟨-, -, hout, hmask⟩ := Context.memoryInside_iff.mp hin
  obtain ⟨hrange, -, hdesc, -, houtput⟩ := Context.registersLegal_iff.mp hreg
  exact Context.inv_iff.mpr ⟨restart_memoryCanonical hcan,
    Context.memoryInside_iff.mpr ⟨⟨rfl, rfl, rfl, rfl⟩, ⟨rfl, rfl, rfl⟩, hout, hmask⟩,
    Context.registersLegal_iff.mpr ⟨hrange, Nat.zero_le _, hdesc, by simp [pairLegal], houtput⟩, rfl, rfl⟩

theorem rangeOffset_inv {x : BitVec 64} (hc : c.inv p = true) (hx : NUM.isFinite ⟨x⟩ = true) :
    Context.inv p { c with rangeOffset := ⟨x⟩ } = true := by
  obtain ⟨hcan, hin, hreg, hdelay, hframe⟩ := Context.inv_iff.mp hc
  obtain ⟨⟨-, hlimit⟩, hrest⟩ := Context.registersLegal_iff.mp hreg
  exact Context.inv_iff.mpr ⟨hcan, hin, Context.registersLegal_iff.mpr ⟨⟨hx, hlimit⟩, hrest⟩, hdelay, hframe⟩

theorem rangeLimit_inv {x : BitVec 64} (hc : c.inv p = true) (hx : NUM.isNaN ⟨x⟩ = false) :
    Context.inv p { c with rangeLimit := ⟨x⟩ } = true := by
  obtain ⟨hcan, hin, hreg, hdelay, hframe⟩ := Context.inv_iff.mp hc
  obtain ⟨⟨hoffset, -⟩, hrest⟩ := Context.registersLegal_iff.mp hreg
  exact Context.inv_iff.mpr ⟨hcan, hin, Context.registersLegal_iff.mpr ⟨⟨hoffset, hx⟩, hrest⟩, hdelay, hframe⟩

theorem setMaskBit_inv {row col : Nat} {b : Bool} (hc : c.inv p = true) (hrow : row < p.maxRows.val)
    (hcol : col < p.maxCols.val) : (c.setMaskBit row col b).inv p = true := by
  obtain ⟨hcan, hin, hreg, hdelay, hframe⟩ := Context.inv_iff.mp hc
  obtain ⟨hgrid, hstripe, hout, hmask⟩ := Context.memoryInside_iff.mp hin
  exact Context.inv_iff.mpr ⟨setMaskBit_memoryCanonical hcan,
    Context.memoryInside_iff.mpr ⟨hgrid, hstripe, hout, Memory.inside_write _ p.maxCols.isLt hmask hrow hcol⟩,
    hreg, hdelay, hframe⟩

theorem record_inv {result : Result} {reason : Reason} (hc : c.inv p = true) (hne : result ≠ .reject)
    (hpair : pairLegal result reason = true) : (c.record result reason).inv p = true := by
  obtain ⟨hcan, hin, hreg, hdelay, hframe⟩ := Context.inv_iff.mp hc
  obtain ⟨hrange, hcount, hdesc, -, houtput⟩ := Context.registersLegal_iff.mp hreg
  exact Context.inv_iff.mpr ⟨hcan, hin,
    Context.registersLegal_iff.mpr ⟨hrange, hcount, hdesc, ⟨hne, hpair⟩, houtput⟩, hdelay, hframe⟩

theorem fatal_inv {reason : Reason} (hc : c.inv p = true) (hpair : pairLegal .fatal reason = true) :
    (c.fatal reason).inv p = true := by
  obtain ⟨hcan, hin, hreg, -, hframe⟩ := Context.inv_iff.mp hc
  obtain ⟨hrange, hcount, hdesc, -, houtput⟩ := Context.registersLegal_iff.mp hreg
  obtain ⟨-, hbuffers⟩ := Context.frameLegal_iff.mp hframe
  exact Context.inv_iff.mpr ⟨hcan, hin,
    Context.registersLegal_iff.mpr ⟨hrange, hcount, hdesc, ⟨nofun, hpair⟩, houtput⟩, rfl,
    Context.frameLegal_iff.mpr ⟨nofun, hbuffers⟩⟩

/-- Only its own clause speaks of the delay line. -/
theorem delayLine_inv {held : Option RoiRecord} {corrected : Bool} (hc : c.inv p = true)
    (hnone : held = none → corrected = false)
    (hsome : ∀ roi, held = some roi → RoiRecord.legal p roi = true ∧ roi.header.mode = .stripe) :
    Context.inv p { c with hdrPrev := held, hdrCorrected := corrected } = true := by
  obtain ⟨hcan, hin, hreg, -, hframe⟩ := Context.inv_iff.mp hc
  exact Context.inv_iff.mpr ⟨hcan, hin, hreg, Context.delayLineLegal_iff.mpr ⟨hnone, hsome⟩, hframe⟩

/-- What the conditioner emits is legal, and so is the delay line it leaves. -/
theorem condition_emitted_inv {ctrl : BitVec 32} {c₁ : Context} {roi out : RoiRecord} (hc : c.inv p = true)
    (hroi : RoiRecord.legal p roi = true) (h : condition p ctrl c roi = .emitted c₁ out) :
    c₁.inv p = true ∧ out.header.Legal p := by
  obtain ⟨-, -, -, hdelay, -⟩ := Context.inv_iff.mp hc
  obtain ⟨-, hheld⟩ := Context.delayLineLegal_iff.mp hdelay
  rcases condition_emitted_cases h with ⟨rfl, rfl⟩ | ⟨held, hp, rfl, hout⟩ | ⟨held, hp, hm, rfl, rfl⟩
  · exact ⟨hc, RoiRecord.header_legal hroi⟩
  · refine ⟨delayLine_inv hc (fun hnone => ?_) hheld, ?_⟩
    · exact absurd (hp.symm.trans hnone) nofun
    · rw [hout]
      exact headerOfMerge_legal (RoiRecord.header_legal (hheld held hp).1)
  · refine ⟨delayLine_inv hc nofun fun roi' heq => ?_, RoiRecord.header_legal (hheld out hp).1⟩
    cases heq
    exact ⟨hroi, hm⟩

theorem openFrame_inv {h : RoiHeader} (hc : c.inv p = true) (hh : h.Legal p) : (openFrame c h).inv p = true := by
  obtain ⟨hcan, hin, hreg, hdelay, -⟩ := Context.inv_iff.mp hc
  obtain ⟨-, -, hout, hmask⟩ := Context.memoryInside_iff.mp hin
  obtain ⟨hrange, -, hrest⟩ := Context.registersLegal_iff.mp hreg
  exact Context.inv_iff.mpr ⟨openFrame_memoryCanonical hcan,
    Context.memoryInside_iff.mpr ⟨⟨rfl, rfl, rfl, rfl⟩, ⟨rfl, rfl, rfl⟩, hout, hmask⟩,
    Context.registersLegal_iff.mpr ⟨hrange, Nat.zero_le _, hrest⟩, hdelay,
    Context.frameLegal_iff.mpr ⟨fun _ => frameDescOf_legal hh, fun _ => ⟨rfl, rfl, rfl, rfl⟩,
      fun _ => ⟨rfl, rfl, rfl, rfl⟩⟩⟩

end

/-! ### Assembling -/

/-- A context that meets the invariant, with an open frame that the ROI with header `h` matches. -/
structure FrameReady (p : Params) (c : Context) (h : RoiHeader) : Prop where
  inv : c.inv p = true
  isOpen : c.frameOpen = true
  matched : frameMatch c.fd h = true

theorem frameDesc_legal_of_open {p : Params} {c : Context} (hc : c.inv p = true) (hopen : c.frameOpen = true) :
    FrameDesc.legal p c.fd = true := by
  obtain ⟨-, -, -, -, hframe⟩ := Context.inv_iff.mp hc
  exact (Context.frameLegal_iff.mp hframe).1 hopen

theorem JoinsFrame.ready {p : Params} {c c₁ : Context} {h : RoiHeader} (hj : JoinsFrame c h c₁) (hc : c.inv p = true)
    (hh : h.Legal p) : FrameReady p c₁ h := by
  cases hj with
  | opened => exact ⟨openFrame_inv hc hh, rfl, frameMatch_frameDescOf h⟩
  | joined hopen hmatch => exact ⟨hc, hopen, hmatch⟩

section
variable {p : Params} {c : Context}

theorem gridAccumulate_memoryInside {e : RoiView} (hc : FrameReady p c e.header) (hh : e.header.Legal p) :
    (gridAccumulate c e).memoryInside p = true := by
  obtain ⟨-, hin, -⟩ := Context.inv_iff.mp hc.inv
  obtain ⟨-, -, ⟨-, hcols⟩, -⟩ := FrameDesc.legal_iff.mp (frameDesc_legal_of_open hc.inv hc.isOpen)
  refine gridAccumulate_induction (P := fun c => c.memoryInside p = true) hin (fun c' i hi h => ?_)
    fun c' i col hi hcol h => ?_
  · obtain ⟨⟨hactive, hraw⟩, hrest⟩ := Context.memoryInside_iff.mp h
    exact Context.memoryInside_iff.mpr
      ⟨⟨Memory.below_write _ hactive (frameRow_lt hh hc.matched hi), hraw⟩, hrest⟩
  · obtain ⟨⟨hactive, hraw0, hraw1, hvote⟩, hrest⟩ := Context.memoryInside_iff.mp h
    have write : ∀ {α : Type} [DecidableEq α] {d v : α} {m : Memory α},
        Memory.inside p.maxRows.val p.maxCols.val m = true →
        Memory.inside p.maxRows.val p.maxCols.val (Memory.write d m (pixKey (frameRow c.fd e.header i) col) v) = true :=
      fun hm => Memory.inside_write _ p.maxCols.isLt hm (frameRow_lt hh hc.matched hi) (hcol.trans_le hcols)
    rcases votePixel_cases e i (frameRow c.fd e.header i) c' col with heq | ⟨q, t0, t1, heq⟩ <;> rw [heq]
    · exact h
    · exact Context.memoryInside_iff.mpr ⟨⟨hactive, write hraw0, write hraw1, write hvote⟩, hrest⟩

theorem gridAccumulate_inv {e : RoiView} (hc : FrameReady p c e.header) (hh : e.header.Legal p)
    (hm : c.fd.mode = .grid) : (gridAccumulate c e).inv p = true := by
  obtain ⟨hcan, -, hreg, hdelay, hframe⟩ := Context.inv_iff.mp hc.inv
  obtain ⟨hdesc, hgrid, -⟩ := Context.frameLegal_iff.mp hframe
  refine Context.inv_iff.mpr ⟨gridAccumulate_memoryCanonical hcan, gridAccumulate_memoryInside hc hh, ?_⟩
  rw [gridAccumulate_frame]
  exact ⟨hreg, hdelay, Context.frameLegal_iff.mpr ⟨hdesc, hgrid, fun hm' => absurd (hm.symm.trans hm') nofun⟩⟩

/-- A stripe that finds room goes to the row of the block that its number names (42_frame_assembler.md R233). -/
theorem stripeAccumulate_inv {ctrl : BitVec 32} {c₁ : Context} {e : RoiView} (hc : FrameReady p c e.header)
    (hm : c.fd.mode = .stripe) (ha : stripeAccumulate p ctrl c e = some c₁) :
    c₁.inv p = true ∧ c₁.frameOpen = true := by
  have hcan := (Accumulates.stripe hm ha).memoryCanonical (Context.inv_iff.mp hc.inv).1
  obtain ⟨-, hin, hreg, hdelay, hframe⟩ := Context.inv_iff.mp hc.inv
  obtain ⟨hgrid, ⟨h0, h1, hn⟩, hrest⟩ := Context.memoryInside_iff.mp hin
  obtain ⟨hrange, -, hregs⟩ := Context.registersLegal_iff.mp hreg
  obtain ⟨hdesc, -, hbuffers⟩ := Context.frameLegal_iff.mp hframe
  obtain ⟨-, -, ⟨-, hcols⟩, -⟩ := FrameDesc.legal_iff.mp (frameDesc_legal_of_open hc.inv hc.isOpen)
  have hw : c.fd.outCols ≤ p.maxCols.val := (Nat.div_le_self _ _).trans hcols
  rcases stripeAccumulate_cases p ctrl c e with ⟨-, h⟩ | ⟨hlt, _, _, _, h⟩ <;> rw [h] at ha <;> cases ha
  have row : ∀ {α : Type} [DecidableEq α] {d : α} {m : Memory α} {f : Nat → α},
      Memory.inside p.maxRows.val p.maxCols.val m = true →
      Memory.inside p.maxRows.val p.maxCols.val (Memory.writeRow d m c.stripeCount c.fd.outCols f) = true :=
    fun hm => Memory.inside_writeRow _ p.maxCols.isLt hm hlt hw
  exact ⟨Context.inv_iff.mpr ⟨hcan, Context.memoryInside_iff.mpr ⟨hgrid, ⟨row h0, row h1, row hn⟩, hrest⟩,
    Context.registersLegal_iff.mpr ⟨hrange, hlt, hregs⟩, hdelay,
    Context.frameLegal_iff.mpr ⟨hdesc, fun hm' => absurd (hm.symm.trans hm') nofun, hbuffers⟩⟩, hc.isOpen⟩

theorem Accumulates.inv {ctrl : BitVec 32} {c₁ : Context} {e : RoiView} (ha : Accumulates p ctrl c e c₁)
    (hc : FrameReady p c e.header) (hh : e.header.Legal p) : c₁.inv p = true ∧ c₁.frameOpen = true := by
  cases ha with
  | grid hm =>
    refine ⟨gridAccumulate_inv hc hh hm, ?_⟩
    rw [gridAccumulate_frame]
    exact hc.isOpen
  | stripe hm ha => exact stripeAccumulate_inv hc hm ha

/-! ### The frame pipeline -/

/-- The binned frame fits the block (42_frame_assembler.md R225, R234). -/
theorem finalRaw_size_le (hc : c.inv p = true) (hopen : c.frameOpen = true) :
    (finalRaw c).h ≤ p.maxRows.val ∧ (finalRaw c).w ≤ p.maxCols.val := by
  obtain ⟨-, -, hreg, -, -⟩ := Context.inv_iff.mp hc
  obtain ⟨-, hcount, -⟩ := Context.registersLegal_iff.mp hreg
  obtain ⟨-, ⟨-, hrows⟩, ⟨-, hcols⟩, -⟩ := FrameDesc.legal_iff.mp (frameDesc_legal_of_open hc hopen)
  obtain ⟨hw, hh⟩ := finalRaw_size c
  rw [hw, hh]
  refine ⟨?_, (Nat.div_le_self _ _).trans hcols⟩
  cases c.fd.mode
  · exact (Nat.div_le_self _ _).trans hrows
  · exact hcount

/-- The descriptor holds the frame's size, whatever the mode (40_commands.md R161). -/
theorem descriptorOf_size (fd : FrameDesc) {h w : Nat} (hh : h < 65536) (hw : w < 65536) :
    (descriptorOf fd h w).outRows.toNat = h ∧ (descriptorOf fd h w).outCols.toNat = w := by
  unfold descriptorOf
  cases fd.mode <;> exact ⟨Nat.mod_eq_of_lt hh, Nat.mod_eq_of_lt hw⟩

theorem framePipeline_inv (ctrl : BitVec 32) (thr : NUM) (hc : c.inv p = true) (hopen : c.frameOpen = true) :
    (framePipeline p ctrl thr c).inv p = true := by
  have hcan := framePipeline_memoryCanonical (p := p) (ctrl := ctrl) (thr := thr) (Context.inv_iff.mp hc).1
  obtain ⟨-, hin, hreg, hdelay, hframe⟩ := Context.inv_iff.mp hc
  obtain ⟨hgrid, hstripe, -, hmask⟩ := Context.memoryInside_iff.mp hin
  obtain ⟨hrange, hcount, -, hresult, -⟩ := Context.registersLegal_iff.mp hreg
  obtain ⟨-, hbuffers⟩ := Context.frameLegal_iff.mp hframe
  obtain ⟨hh, hw⟩ := finalRaw_size_le hc hopen
  have hw' : (finalRaw c).w < 65536 := hw.trans_lt p.maxCols.isLt
  obtain ⟨hrows, hcols⟩ := descriptorOf_size c.fd (hh.trans_lt p.maxRows.isLt) hw'
  obtain ⟨_, _, _, _, heq⟩ := framePipeline_eq p ctrl thr c
  have out : ∀ f : Nat → Nat → BitVec 16,
      Memory.inside (descriptorOf c.fd (finalRaw c).h (finalRaw c).w).outRows.toNat
        (descriptorOf c.fd (finalRaw c).h (finalRaw c).w).outCols.toNat
        (Memory.ofPixels 0 (finalRaw c).h (finalRaw c).w f) = true := by
    intro f
    rw [hrows, hcols]
    exact Memory.inside_ofPixels f hw'
  rw [heq] at hcan ⊢
  exact Context.inv_iff.mpr ⟨hcan,
    Context.memoryInside_iff.mpr ⟨hgrid, hstripe, ⟨out _, out _, out _, out _⟩, hmask⟩,
    Context.registersLegal_iff.mpr ⟨hrange, hcount, ⟨hrows.trans_le hh, hcols.trans_le hw⟩, hresult, .inl rfl⟩,
    hdelay, Context.frameLegal_iff.mpr ⟨nofun, hbuffers⟩⟩

end

/-! ### Commands -/

/-- The sequence answers a legal pair, which is no rejection (40_commands.md R158). -/
theorem FrameEffect.pair_legal {p : Params} {ctrl : BitVec 32} {thr : NUM} {c : Context} {e : RoiView} {o : RoiOutcome}
    (ho : FrameEffect p ctrl thr c e o) : o.result ≠ .reject ∧ pairLegal o.result o.reason = true := by
  cases ho with
  | skipped hr => exact ⟨nofun, hr⟩
  | mismatched | overflowed | kept | emitted => exact ⟨nofun, rfl⟩

theorem FrameEffect.inv {p : Params} {ctrl : BitVec 32} {thr : NUM} {c : Context} {e : RoiView} {o : RoiOutcome}
    (ho : FrameEffect p ctrl thr c e o) (hc : c.inv p = true) (hh : e.header.Legal p) : o.ctx.inv p = true := by
  cases ho with
  | skipped => exact hc
  | mismatched => exact fatal_inv hc rfl
  | overflowed hj => exact fatal_inv (hj.ready hc hh).inv rfl
  | kept hj ha => exact (ha.inv (hj.ready hc hh) hh).1
  | emitted hj ha =>
    obtain ⟨hinv, hopen⟩ := ha.inv (hj.ready hc hh) hh
    exact framePipeline_inv ctrl thr hinv hopen

theorem RoiEffect.pair_legal {p : Params} {ctrl : BitVec 32} {thr : NUM} {c : Context} {o : RoiOutcome}
    (ho : RoiEffect p ctrl thr c o) : o.result ≠ .reject ∧ pairLegal o.result o.reason = true := by
  cases ho with
  | malformed hr => exact ⟨nofun, hr⟩
  | stored => exact ⟨nofun, rfl⟩
  | conditioned _ _ ho => exact ho.pair_legal

theorem RoiEffect.inv {p : Params} {ctrl : BitVec 32} {thr : NUM} {c : Context} {o : RoiOutcome}
    (ho : RoiEffect p ctrl thr c o) (hc : c.inv p = true) : o.ctx.inv p = true := by
  cases ho with
  | malformed hr => exact fatal_inv hc hr
  | stored hroi hm =>
    refine delayLine_inv hc nofun fun roi heq => ?_
    cases heq
    exact ⟨hroi, hm⟩
  | conditioned hroi hcond ho =>
    obtain ⟨hinv, hout⟩ := condition_emitted_inv hc hroi hcond
    exact ho.inv hinv hout

theorem ContextEffect.inv {i : Instr} {s : State} {v : Nat} {c : Context} {result : Result} {reason : Reason}
    (h : ContextEffect i s v c result reason) (hc : (s.ctx v).inv s.params = true) : c.inv s.params = true := by
  cases h with
  | restarted => exact restart_inv hc
  | offsetWritten _ hx => exact rangeOffset_inv hc hx
  | limitWritten _ hx => exact rangeLimit_inv hc hx
  | maskWritten _ hrow hcol => exact setMaskBit_inv hc hrow hcol
  | assembled _ ho =>
    obtain ⟨hne, hpair⟩ := ho.pair_legal
    exact record_inv (ho.inv hc) hne hpair

theorem ContextEffect.pair_legal {i : Instr} {s : State} {v : Nat} {c : Context} {result : Result} {reason : Reason}
    (h : ContextEffect i s v c result reason) : pairLegal result reason = true := by
  cases h with
  | restarted | offsetWritten | limitWritten | maskWritten => rfl
  | assembled _ ho => exact ho.pair_legal.2

/-- A legal value of CTRL has ten bits, so the 32-bit register holds it whole (30_encoding.md R111). -/
theorem setWidth_setWidth_of_ctrlLegal {x : BitVec 64} (hx : ctrlLegal x = true) :
    (x.setWidth 32).setWidth 64 = x := by
  simp only [ctrlLegal, Bool.and_eq_true, beq_iff_eq] at hx
  obtain ⟨⟨hhigh, -⟩, -⟩ := hx
  have hzero : (x.extractLsb' 10 54).toNat = 0 := congrArg BitVec.toNat hhigh
  rw [BitVec.extractLsb'_toNat, Nat.shiftRight_eq_div_pow] at hzero
  apply BitVec.eq_of_toNat_eq
  simp only [BitVec.toNat_setWidth]
  omega

/-- The response and the two global registers stay legal. -/
theorem CommandEffect.globals_legal {i : Instr} {s t : State} (h : CommandEffect i s t) (hs : s.inv = true) :
    ctrlLegal (t.ctrl.setWidth 64) = true ∧ t.snrThreshold.isNaN = false ∧ t.resp.all Response.legal = true := by
  obtain ⟨hctrl, hthr, -, -⟩ := State.inv_iff.mp hs
  cases h with
  | responded hr => exact ⟨hctrl, hthr, hr⟩
  | cleared => exact ⟨by simp [ctrlLegal], by simp [NUM.isNaN], rfl⟩
  | @ctrlWritten f _ hx =>
    refine ⟨?_, hthr, rfl⟩
    rw [State.answer_ctrl, setWidth_setWidth_of_ctrlLegal hx]
    exact hx
  | thresholdWritten _ hx => exact ⟨hctrl, hx, rfl⟩
  | contextLeft _ _ heff => exact ⟨hctrl, hthr, by simp [Response.legal, heff.pair_legal]⟩

theorem CommandEffect.inv {i : Instr} {s t : State} (h : CommandEffect i s t) (hs : s.inv = true) : t.inv = true := by
  obtain ⟨hctrl, hthr, hresp⟩ := h.globals_legal hs
  obtain ⟨-, -, hctxs, -⟩ := State.inv_iff.mp hs
  refine State.inv_iff.mpr ⟨hctrl, hthr, ?_, hresp⟩
  rw [h.device_unchanged.1]
  exact h.forall_ctxs hctxs (Context.reset_inv _) fun hc hctx => hctx.inv hc

/-- Settles O59, by the effects of a step: each operation of a command keeps every clause of the invariant. -/
theorem stepKeepsInvariant : Obligations.StepKeepsInvariant := by
  intro s t hs h
  rcases step_effect h with rfl | ⟨rest, rfl | ⟨i, heff⟩⟩
  · exact hs
  · obtain ⟨hctrl, hthr, hctxs, -⟩ := State.inv_iff.mp hs
    exact State.inv_iff.mpr ⟨hctrl, hthr, hctxs, rfl⟩
  · exact heff.inv hs

end Sys2Proof.Machine
end

section
/-! PROOF LAYER for 20_memory.md. The checks of a write command read the construction parameters and NUM_VS alone, so
two states of one device pass or fail them together; each accepted write is one operation on the state. -/

namespace Sys2Proof.Machine

/-- Two states of one device: their parameters and NUM_VS agree. -/
structure State.SameDevice (s s' : State) : Prop where
  params : s'.params = s.params
  numVs : s'.numVs = s.numVs

theorem CommandEffect.sameDevice {i : Instr} {s t : State} (h : CommandEffect i s t) : State.SameDevice s t := by
  obtain ⟨hparams, hlen, -⟩ := h.device_unchanged
  exact ⟨hparams, hlen⟩

/-! ### Replacing a context -/

@[simp] theorem State.setCtx_numVs (s : State) (v : Nat) (c : Context) : (s.setCtx v c).numVs = s.numVs :=
  List.length_set

theorem State.ctx_setCtx_same {s : State} {v : Nat} (hv : v < s.numVs) (c : Context) : (s.setCtx v c).ctx v = c :=
  State.ctx_of_getElem? (List.getElem?_set_self hv)

theorem State.ctx_setCtx_other {v w : Nat} (h : v ≠ w) (s : State) (c : Context) :
    (s.setCtx v c).ctx w = s.ctx w := by
  simp [State.ctx, List.getD, List.getElem?_set_ne h]

@[simp] theorem State.setCtx_ctx_self (s : State) (v : Nat) : s.setCtx v (s.ctx v) = s := by
  have hset : s.ctxs.set v (s.ctx v) = s.ctxs := by
    by_cases hv : v < s.ctxs.length
    · simp [State.ctx, hv]
    · exact List.set_eq_of_length_le (Nat.le_of_not_lt hv)
  rw [State.setCtx, hset]

/-! ### What the checks of the writes decide -/

/-- The checks WRREG and RDREG share read of the state only NUM_VS. -/
theorem regAccessError_sameDevice {s s' : State} (h : State.SameDevice s s') (f : CmdFields) (r : RegId) :
    regAccessError s' f r = regAccessError s f r := by
  simp only [regAccessError, h.numVs]

theorem vsresetState_sameDevice {s s' : State} (h : State.SameDevice s s') (f : CmdFields) :
    (∃ reason, vsresetState f s = s.reject reason ∧ vsresetState f s' = s'.reject reason) ∨
      (vsOf f < s.numVs ∧ vsresetState f s = (s.setCtx (vsOf f) (s.ctx (vsOf f)).restart).answer 0 ∧
        vsresetState f s' = (s'.setCtx (vsOf f) (s'.ctx (vsOf f)).restart).answer 0) := by
  simp only [vsresetState, h.numVs]
  split_ifs with hfields hvs
  · exact .inl ⟨_, rfl, rfl⟩
  · exact .inl ⟨_, rfl, rfl⟩
  · exact .inr ⟨Nat.lt_of_not_le hvs, rfl, rfl⟩

theorem wrregState_sameDevice {s s' : State} (h : State.SameDevice s s') (f : CmdFields) :
    (∃ reason, wrregState f s = s.reject reason ∧ wrregState f s' = s'.reject reason) ∨
      ∃ r, regOfNumber f.imm = some r ∧ (r.isGlobal = false → vsOf f < s.numVs) ∧
        wrregState f s = (s.writeReg r (vsOf f) f.arg).answer 0 ∧
        wrregState f s' = (s'.writeReg r (vsOf f) f.arg).answer 0 := by
  simp only [wrregState, regAccessError_sameDevice h]
  split
  next => exact .inl ⟨_, rfl, rfl⟩
  split
  next => exact .inl ⟨_, rfl, rfl⟩
  next r hr =>
    split
    next => exact .inl ⟨_, rfl, rfl⟩
    next hacc =>
      obtain ⟨-, hvs⟩ := (regAccessError_none s f r).mp hacc
      split_ifs
      · exact .inl ⟨_, rfl, rfl⟩
      · exact .inl ⟨_, rfl, rfl⟩
      · exact .inr ⟨r, hr, hvs, rfl, rfl⟩

theorem wrmaskState_sameDevice {s s' : State} (h : State.SameDevice s s') (f : CmdFields) :
    (∃ reason, wrmaskState f s = s.reject reason ∧ wrmaskState f s' = s'.reject reason) ∨
      (vsOf f < s.numVs ∧
        wrmaskState f s =
          (s.setCtx (vsOf f) ((s.ctx (vsOf f)).setMaskBit (rowOf f) (colOf f) (f.imm.getLsbD 0))).answer 0 ∧
        wrmaskState f s' =
          (s'.setCtx (vsOf f) ((s'.ctx (vsOf f)).setMaskBit (rowOf f) (colOf f) (f.imm.getLsbD 0))).answer 0) := by
  simp only [wrmaskState, h.numVs, h.params]
  split_ifs with hfields hvs hpixel
  · exact .inl ⟨_, rfl, rfl⟩
  · exact .inl ⟨_, rfl, rfl⟩
  · exact .inl ⟨_, rfl, rfl⟩
  · exact .inr ⟨Nat.lt_of_not_le hvs, rfl, rfl⟩

/-- The checks of RESET do not read the state. -/
theorem resetState_alike (f : CmdFields) (s s' : State) :
    (resetState f s = s.reject .reservedField ∧ resetState f s' = s'.reject .reservedField) ∨
      (resetState f s = s.resetAll.answer 0 ∧ resetState f s' = s'.resetAll.answer 0) := by
  unfold resetState
  split
  · exact .inl ⟨rfl, rfl⟩
  · exact .inr ⟨rfl, rfl⟩

end Sys2Proof.Machine
end

section
/-! PROOF of O52. A command that addresses a virtual sensor reads, of the state, what all commands share and that
sensor's context, and leaves another context for that sensor: two of them for different sensors commute (20_memory.md
R88). -/

namespace Sys2Proof.Machine

/-- Two states look the same to a command that addresses virtual sensor `v`: they agree on the parameters, the global
registers, NUM_VS and the context of `v`. -/
structure State.SameFor (v : Nat) (s s' : State) : Prop extends State.SameDevice s s' where
  ctrl : s'.ctrl = s.ctrl
  snrThreshold : s'.snrThreshold = s.snrThreshold
  ctx : s'.ctx v = s.ctx v

/-- From `s` and from `s'` a command leaves the same context for `v`, changes no other, and answers the same. -/
inductive LeavesAlike (v : Nat) (s s' : State) : State → State → Prop
  | left (c : Context) (result : Result) (reason : Reason) (data : BitVec 64) :
      LeavesAlike v s s' ((s.setCtx v c).respond result reason data) ((s'.setCtx v c).respond result reason data)

theorem State.SameFor.refl (v : Nat) (s : State) : State.SameFor v s s := ⟨⟨rfl, rfl⟩, rfl, rfl, rfl⟩

/-- A command that left another sensor's context does not show to one that addresses `w`. -/
theorem LeavesAlike.sameFor {v w : Nat} {s s' t t' : State} (h : LeavesAlike v s s' t t') (hne : v ≠ w) :
    State.SameFor w s t := by
  cases h
  exact ⟨⟨rfl, State.setCtx_numVs ..⟩, rfl, rfl, State.ctx_setCtx_other hne ..⟩

/-- A command that only answers leaves the context as it was. -/
theorem LeavesAlike.responded {v : Nat} {s s' : State} (h : State.SameFor v s s') (result : Result) (reason : Reason)
    (data : BitVec 64) : LeavesAlike v s s' (s.respond result reason data) (s'.respond result reason data) := by
  have hleft := LeavesAlike.left (v := v) (s := s) (s' := s') (s.ctx v) result reason data
  rwa [State.setCtx_ctx_self, ← h.ctx, State.setCtx_ctx_self] at hleft

theorem vsresetState_local {f : CmdFields} {s s' : State} (h : State.SameFor (vsOf f) s s') :
    LeavesAlike (vsOf f) s s' (vsresetState f s) (vsresetState f s') := by
  rcases vsresetState_sameDevice h.toSameDevice f with ⟨reason, hs, hs'⟩ | ⟨-, hs, hs'⟩ <;> rw [hs, hs']
  · exact .responded h ..
  · rw [h.ctx]
    exact .left ..

theorem wrmaskState_local {f : CmdFields} {s s' : State} (h : State.SameFor (vsOf f) s s') :
    LeavesAlike (vsOf f) s s' (wrmaskState f s) (wrmaskState f s') := by
  rcases wrmaskState_sameDevice h.toSameDevice f with ⟨reason, hs, hs'⟩ | ⟨-, hs, hs'⟩ <;> rw [hs, hs']
  · exact .responded h ..
  · rw [h.ctx]
    exact .left ..

/-- A write of a register that is not global is one of a context. -/
theorem writeReg_local {v : Nat} {s s' : State} (h : State.SameFor v s s') {r : RegId} (hr : r.isGlobal = false)
    (x : BitVec 64) : LeavesAlike v s s' ((s.writeReg r v x).answer 0) ((s'.writeReg r v x).answer 0) := by
  cases r with
  | ctrl | snrThreshold | paramNumVs | paramMaxRows | paramMaxCols | paramRawBits => cases hr
  | rangeOffset | rangeLimit =>
    simp only [State.writeReg, h.ctx]
    exact .left ..
  | status | frameCount => exact .responded h ..

theorem wrregState_local {f : CmdFields} {s s' : State} (h : State.SameFor (vsOf f) s s')
    (hscope : ∀ r, regOfNumber f.imm = some r → r.isGlobal = false) :
    LeavesAlike (vsOf f) s s' (wrregState f s) (wrregState f s') := by
  rcases wrregState_sameDevice h.toSameDevice f with ⟨reason, hs, hs'⟩ | ⟨r, hr, -, hs, hs'⟩ <;> rw [hs, hs']
  · exact .responded h ..
  · exact writeReg_local h (hscope r hr) _

theorem readReg_sameFor {v : Nat} {s s' : State} (h : State.SameFor v s s') (r : RegId) :
    s'.readReg r v = s.readReg r v := by
  simp only [State.readReg, h.ctrl, h.snrThreshold, h.ctx, h.numVs, h.params]

theorem rdregState_local {f : CmdFields} {s s' : State} (h : State.SameFor (vsOf f) s s') :
    LeavesAlike (vsOf f) s s' (rdregState f s) (rdregState f s') := by
  simp only [rdregState, regAccessError_sameDevice h.toSameDevice, readReg_sameFor h]
  split
  next => exact .responded h ..
  split
  next => exact .responded h ..
  split <;> exact .responded h ..

theorem rdoutState_local {f : CmdFields} {s s' : State} (h : State.SameFor (vsOf f) s s') :
    LeavesAlike (vsOf f) s s' (rdoutState f s) (rdoutState f s') := by
  simp only [rdoutState, h.numVs, h.ctx]
  split_ifs <;> exact .responded h ..

theorem rddescState_local {f : CmdFields} {s s' : State} (h : State.SameFor (vsOf f) s s') :
    LeavesAlike (vsOf f) s s' (rddescState f s) (rddescState f s') := by
  simp only [rddescState, h.numVs, h.ctx]
  split_ifs <;> exact .responded h ..

theorem rdmaskState_local {f : CmdFields} {s s' : State} (h : State.SameFor (vsOf f) s s') :
    LeavesAlike (vsOf f) s s' (rdmaskState f s) (rdmaskState f s') := by
  simp only [rdmaskState, h.numVs, h.params, h.ctx]
  split_ifs <;> exact .responded h ..

/-- A ROI is sequenced with the context of the virtual sensor its header names. -/
theorem roiState_local {f : CmdFields} {record : List Word} {s s' : State}
    (h : State.SameFor (headerOf record).vsid.toNat s s') :
    LeavesAlike (headerOf record).vsid.toNat s s' (roiState f record s) (roiState f record s') := by
  simp only [roiState, h.params, h.numVs, h.ctrl, h.snrThreshold]
  split
  next => exact .responded h ..
  split
  next => exact .responded h ..
  next v reason hval =>
    obtain ⟨-, -, rfl, -⟩ := validate_malformed hval
    rw [h.ctx]
    exact .left ..
  next v roi hval =>
    obtain ⟨-, -, rfl, -⟩ := validate_valid hval
    rw [h.ctx]
    exact .left ..

/-- A WRREG or RDREG addresses the virtual sensor of its VS field when its register has the scope per VS. -/
theorem addressed_register {f : CmdFields} {v : Nat}
    (h : (if (regOfNumber f.imm).any (fun r => !r.isGlobal) then some (vsOf f) else none) = some v) :
    vsOf f = v ∧ ∀ r, regOfNumber f.imm = some r → r.isGlobal = false := by
  obtain ⟨hany, hv⟩ := Option.ite_none_right_eq_some.mp h
  exact ⟨Option.some.inj hv, fun r hr => by simpa [hr] using hany⟩

/-- Two states that look the same to the addressed virtual sensor are left alike. -/
theorem exec_local {i : Instr} {v : Nat} {s s' t t' : State} (hi : addressed i = some v) (h : State.SameFor v s s')
    (ht : exec i s = .next t) (ht' : exec i s' = .next t') : LeavesAlike v s s' t t' := by
  cases i with
  | nop f | reset f => cases hi
  | vsreset f => cases hi; cases ht; cases ht'; exact vsresetState_local h
  | wrreg f =>
    obtain ⟨rfl, hscope⟩ := addressed_register hi
    cases ht; cases ht'; exact wrregState_local h hscope
  | rdreg f =>
    obtain ⟨rfl, -⟩ := addressed_register hi
    cases ht; cases ht'; exact rdregState_local h
  | roi f record => cases hi; cases ht; cases ht'; exact roiState_local h
  | rdout f => cases hi; cases ht; cases ht'; exact rdoutState_local h
  | rddesc f => cases hi; cases ht; cases ht'; exact rddescState_local h
  | wrmask f => cases hi; cases ht; cases ht'; exact wrmaskState_local h
  | rdmask f => cases hi; cases ht; cases ht'; exact rdmaskState_local h

/-- Settles O52: each command leaves the same context whether it runs first or second, and replacing two different
contexts commutes. -/
theorem commandsForDifferentSensorsCommute : Obligations.CommandsForDifferentSensorsCommute := by
  intro i j v w s t1 t2 u1 u2 hi hj hne ht1 ht2 hu1 hu2
  have ht1_sameFor : State.SameFor w s t1 := (exec_local hi (.refl v s) ht1 ht1).sameFor hne
  have hu1_sameFor : State.SameFor v s u1 := (exec_local hj (.refl w s) hu1 hu1).sameFor hne.symm
  obtain ⟨c, _, _, _⟩ := exec_local hi hu1_sameFor ht1 hu2
  obtain ⟨d, _, _, _⟩ := exec_local hj ht1_sameFor hu1 ht2
  exact ⟨rfl, rfl, rfl, List.set_comm c d hne⟩

end Sys2Proof.Machine
end

section
/-! PROOF of O55. The four reads only answer, and do not read the last response (20_memory.md R85). -/

namespace Sys2Proof.Machine

/-- A read does not read the last response: its own replaces it. -/
theorem exec_read_ignores_resp {f : CmdFields} {i : Instr} (s : State) (q : Option Response)
    (hi : i = .rdreg f ∨ i = .rdout f ∨ i = .rddesc f ∨ i = .rdmask f) :
    exec i { s with resp := q } = exec i s := by
  rcases hi with rfl | rfl | rfl | rfl <;> rfl

/-- A read is rejected or answers a value; either way only the response is new. -/
theorem exec_read_responds {f : CmdFields} {i : Instr} (s : State)
    (hi : i = .rdreg f ∨ i = .rdout f ∨ i = .rddesc f ∨ i = .rdmask f) :
    ∃ r, exec i s = .next { s with resp := some r } := by
  rcases hi with rfl | rfl | rfl | rfl
  · rw [exec_rdreg]
    rcases rdregState_cases f s with ⟨_, h⟩ | ⟨_, -, -, h⟩ <;> rw [h] <;> exact ⟨_, rfl⟩
  · rw [exec_rdout]
    rcases rdoutState_cases f s with ⟨_, h⟩ | ⟨_, h⟩ <;> rw [h] <;> exact ⟨_, rfl⟩
  · rw [exec_rddesc]
    rcases rddescState_cases f s with ⟨_, h⟩ | ⟨_, h⟩ <;> rw [h] <;> exact ⟨_, rfl⟩
  · rw [exec_rdmask]
    rcases rdmaskState_cases f s with ⟨_, h⟩ | ⟨_, h⟩ <;> rw [h] <;> exact ⟨_, rfl⟩

/-- Settles O55. -/
theorem readsHaveNoSideEffect : Obligations.ReadsHaveNoSideEffect := by
  intro f s i hi
  obtain ⟨r, hr⟩ := exec_read_responds s hi
  exact ⟨r, hr, fun q => (exec_read_ignores_resp s q hi).trans hr⟩

end Sys2Proof.Machine
end

section
/-! PROOF of O56. Each accepted write, done again, writes what is already there (20_memory.md R85). -/

namespace Sys2Proof.Machine

/-- An update of one context that changes nothing the second time changes nothing of the state the second time. -/
theorem State.update_context_twice {s t : State} {v : Nat} {g : Context → Context} (hv : v < s.numVs)
    (hg : g (g (s.ctx v)) = g (s.ctx v)) (ht : t = (s.setCtx v (g (s.ctx v))).answer 0) :
    (t.setCtx v (g (t.ctx v))).answer 0 = t := by
  have hctx : t.ctx v = g (s.ctx v) := by rw [ht, State.answer_ctx, State.ctx_setCtx_same hv]
  have hself := State.setCtx_ctx_self t v
  rw [hctx, hg, ← hctx, hself, ht]
  rfl

/-- Writing a bit twice is writing it once; a map that is not canonical could list the bit again behind its first
entry. -/
theorem Context.setMaskBit_twice {c : Context} (hc : c.memoryCanonical = true) (row col : Nat) (b : Bool) :
    (c.setMaskBit row col b).setMaskBit row col b = c.setMaskBit row col b := by
  obtain ⟨-, -, -, hpmask⟩ := Context.memoryCanonical_iff.mp hc
  simp only [Context.setMaskBit, Memory.write_write_same b hpmask]

theorem State.writeReg_twice {s t : State} {r : RegId} {v : Nat} {x : BitVec 64}
    (hv : r.isGlobal = false → v < s.numVs) (ht : t = (s.writeReg r v x).answer 0) :
    (t.writeReg r v x).answer 0 = t := by
  cases r with
  | ctrl | snrThreshold => subst ht; rfl
  | rangeOffset => exact State.update_context_twice (g := ({ · with rangeOffset := ⟨x⟩ })) (hv rfl) rfl ht
  | rangeLimit => exact State.update_context_twice (g := ({ · with rangeLimit := ⟨x⟩ })) (hv rfl) rfl ht
  | status | frameCount | paramNumVs | paramMaxRows | paramMaxCols | paramRawBits => subst ht; rfl

theorem State.resetAll_answer_sameDevice {s t : State} (h : State.SameDevice s t) (hstream : t.stream = s.stream)
    (data : BitVec 64) : t.resetAll.answer data = s.resetAll.answer data := by
  simp only [State.answer, State.respond, State.resetAll, h.params, h.numVs, hstream]

/-! ### Each command issued twice -/

theorem wrregState_twice (f : CmdFields) (s : State) : wrregState f (wrregState f s) = wrregState f s := by
  rcases wrregState_sameDevice (wrregState_effect f s).sameDevice f with ⟨_, hs, ht⟩ | ⟨_, -, hv, hs, ht⟩ <;> rw [ht]
  · rw [hs]; rfl
  · exact State.writeReg_twice hv hs

theorem wrmaskState_twice (f : CmdFields) {s : State} (hcanon : s.memoryCanonical = true) :
    wrmaskState f (wrmaskState f s) = wrmaskState f s := by
  rcases wrmaskState_sameDevice (wrmaskState_effect f s).sameDevice f with ⟨_, hs, ht⟩ | ⟨hv, hs, ht⟩ <;> rw [ht]
  · rw [hs]; rfl
  · have hc : (s.ctx (vsOf f)).memoryCanonical = true :=
      State.memoryCanonical_iff.mp hcanon _ (List.mem_of_getElem? (State.getElem?_of_lt hv))
    exact State.update_context_twice (g := (·.setMaskBit (rowOf f) (colOf f) (f.imm.getLsbD 0))) hv
      (Context.setMaskBit_twice hc ..) hs

theorem vsresetState_twice (f : CmdFields) (s : State) : vsresetState f (vsresetState f s) = vsresetState f s := by
  rcases vsresetState_sameDevice (vsresetState_effect f s).sameDevice f with ⟨_, hs, ht⟩ | ⟨hv, hs, ht⟩ <;> rw [ht]
  · rw [hs]; rfl
  · exact State.update_context_twice (g := Context.restart) hv rfl hs

theorem resetState_twice (f : CmdFields) (s : State) : resetState f (resetState f s) = resetState f s := by
  have heff := resetState_effect f s
  obtain ⟨-, -, hstream⟩ := heff.device_unchanged
  rcases resetState_alike f s (resetState f s) with ⟨hs, ht⟩ | ⟨hs, ht⟩ <;> rw [ht]
  · rw [hs]; rfl
  · rw [State.resetAll_answer_sameDevice heff.sameDevice hstream, ← hs]

/-- Settles O56: the second time the checks decide as they did the first time, and an accepted write finds its effect
already there. -/
theorem writesAreIdempotent : Obligations.WritesAreIdempotent := by
  rintro f s t i hcanon (rfl | rfl | rfl | rfl) ht <;> cases ht
  · exact congrArg Host.Outcome.next (wrregState_twice f s)
  · exact congrArg Host.Outcome.next (wrmaskState_twice f hcanon)
  · exact congrArg Host.Outcome.next (vsresetState_twice f s)
  · exact congrArg Host.Outcome.next (resetState_twice f s)

end Sys2Proof.Machine
end

section
/-! PROOF of O4. -/

namespace Sys2Proof.Machine

/-- Settles O4: the branch of `step` for a whole command (20_memory.md R86). -/
theorem stepRunsDecodedCommand : Obligations.StepRunsDecodedCommand := by
  intro s i rest h
  rw [step, h]

end Sys2Proof.Machine
end

section
/-! PROOF LAYER for 30_encoding.md R100 to R103. What the decoder reads, as an equivalence with the command's opcode,
fields and record, and how a CMD word and ARG are made of their fields. -/

namespace Sys2Proof

/-! ### Words and their fields -/

/-- A CMD word is its opcode and its fields side by side (30_encoding.md R101). -/
theorem encodeCmd_cmdFields (cmd argLow argHigh : Word) :
    encodeCmd (cmd.extractLsb' 24 8) (cmdFields cmd argLow argHigh) = cmd := by
  have hvs : cmd.extractLsb' 24 8 ++ cmd.extractLsb' 20 4 = cmd.extractLsb' 20 12 :=
    BitVec.extractLsb'_append_extractLsb'_eq_extractLsb' rfl
  have hsel : cmd.extractLsb' 20 12 ++ cmd.extractLsb' 16 4 = cmd.extractLsb' 16 16 :=
    BitVec.extractLsb'_append_extractLsb'_eq_extractLsb' rfl
  have himm : cmd.extractLsb' 16 16 ++ cmd.extractLsb' 0 16 = cmd := BitVec.extractLsb'_append_extractLsb'
  simp only [encodeCmd, cmdFields, hvs, hsel, himm]

@[simp] theorem cmdFields_argLow (cmd argLow argHigh : Word) :
    (cmdFields cmd argLow argHigh).arg.extractLsb' 0 32 = argLow := BitVec.extractLsb'_append_eq_right

@[simp] theorem cmdFields_argHigh (cmd argLow argHigh : Word) :
    (cmdFields cmd argLow argHigh).arg.extractLsb' 32 32 = argHigh := BitVec.extractLsb'_append_eq_left

theorem Word.toNat_lowHalf (w : Word) : (w.extractLsb' 0 16).toNat = w.toNat % 2 ^ 16 := by
  simp [BitVec.extractLsb'_toNat]

theorem Word.toNat_highHalf (w : Word) : (w.extractLsb' 16 16).toNat = w.toNat / 2 ^ 16 := by
  have hw : w.toNat < 2 ^ 32 := w.isLt
  rw [BitVec.extractLsb'_toNat, Nat.shiftRight_eq_div_pow, Nat.mod_eq_of_lt (by omega)]

/-! ### The decoder -/

/-- A ROI command is read when the stream begins with a record of RECLEN words, and those are its record. -/
theorem decodeRoi_eq_instr_iff {f : CmdFields} {ws rest : List Word} {i : Instr} :
    decodeRoi f ws = .instr i rest ↔ ∃ record, i = .roi f record ∧ record ++ rest = ws ∧ record.length = recLen f := by
  unfold decodeRoi
  constructor
  · intro h
    split at h
    · cases h
    · next hlen =>
      cases h
      exact ⟨_, rfl, List.take_append_drop .., List.length_take_of_le (by omega)⟩
  · rintro ⟨record, rfl, rfl, hlen⟩
    rw [if_neg (by simp [hlen]), ← hlen, List.take_left, List.drop_left]

/-- An opcode and its fields are read as the command that has them, with the record that R100 asks for. -/
theorem decodeCommand_eq_instr_iff {opc : Nat} {f : CmdFields} {ws rest : List Word} {i : Instr} :
    decodeCommand opc f ws = .instr i rest ↔
      (opcodeOf i).toNat = opc ∧ fieldsOf i = f ∧ recordOf i ++ rest = ws ∧ i.recordFits = true := by
  constructor
  · intro h
    unfold decodeCommand at h
    split at h
    case h_6 =>
      obtain ⟨record, rfl, hws, hlen⟩ := decodeRoi_eq_instr_iff.mp h
      exact ⟨rfl, rfl, hws, beq_iff_eq.mpr hlen⟩
    all_goals cases h
    all_goals exact ⟨rfl, rfl, rfl, rfl⟩
  · rintro ⟨rfl, rfl, rfl, hfits⟩
    cases i with
    | roi f record => exact decodeRoi_eq_instr_iff.mpr ⟨record, rfl, rfl, beq_iff_eq.mp hfits⟩
    | _ => rfl

/-- Opcodes 0x0A to 0xFF are reserved (30_encoding.md R103). -/
theorem decodeCommand_reserved {opc : Nat} (h : 0x0A ≤ opc) (f : CmdFields) (ws : List Word) :
    decodeCommand opc f ws = .badOpcode ws := by
  unfold decodeCommand
  split
  case h_11 => rfl
  all_goals omega

/-- A command is read only from a stream that holds at least CMD and ARG. -/
theorem decode_eq_instr {ws rest : List Word} {i : Instr} (h : decode ws = .instr i rest) :
    ∃ cmd argLow argHigh tail, ws = cmd :: argLow :: argHigh :: tail ∧
      decodeCommand (cmdOpcode cmd) (cmdFields cmd argLow argHigh) tail = .instr i rest := by
  unfold decode at h
  split at h
  · exact ⟨_, _, _, _, rfl, h⟩
  · cases h

end Sys2Proof
end

section
/-! PROOF of O1 and O2. Decoding and encoding are inverse to each other (30_encoding.md R100, R101, R127). -/

namespace Sys2Proof

/-- Settles O1: the three words carry the opcode and the fields, which with the record make the command. -/
theorem decodeReadsBackEncode : Obligations.DecodeReadsBackEncode := by
  intro i rest hfits
  obtain ⟨cmd, argLow, argHigh, hwords, hopc, hfields⟩ := Laws.OpcodeOfEncoding.statement_of i
  rw [hwords]
  exact decodeCommand_eq_instr_iff.mpr ⟨hopc.symm, hfields.symm, rfl, hfits⟩

/-- Settles O2. -/
theorem encodeRebuildsDecodedWords : Obligations.EncodeRebuildsDecodedWords := by
  intro ws i rest h
  obtain ⟨cmd, argLow, argHigh, tail, rfl, hcommand⟩ := decode_eq_instr h
  obtain ⟨hopc, hfields, htail, hfits⟩ := decodeCommand_eq_instr_iff.mp hcommand
  have hopcode : opcodeOf i = cmd.extractLsb' 24 8 := BitVec.eq_of_toNat_eq hopc
  refine ⟨?_, hfits⟩
  simp only [encode, hopcode, hfields, encodeCmd_cmdFields, cmdFields_argLow, cmdFields_argHigh, List.cons_append,
    List.nil_append, htail]

end Sys2Proof
end

section
/-! PROOF of O3 and O5. Words written out, and reserved opcodes (30_encoding.md R102, R103). -/

namespace Sys2Proof

/-- Settles O3: the decoder, run on each stream. -/
theorem writtenWordsDecode : Obligations.WrittenWordsDecode := by
  refine ⟨?wrreg, ?rddesc, ?rdout, ?roi, ?reserved⟩ <;> decide

namespace Machine

theorem step_of_badOpcode {s : State} {rest : List Word} (h : decode s.stream = .badOpcode rest) :
    step s = .next (State.reject { s with stream := rest } .badOpcode) := by
  rw [step, h]

/-- Settles O5. -/
theorem reservedOpcodeIsRejected : Obligations.ReservedOpcodeIsRejected := by
  intro s cmd argLow argHigh rest hstream hopc
  have hdecode : decode s.stream = .badOpcode rest := by
    rw [hstream]
    exact decodeCommand_reserved hopc _ _
  exact step_of_badOpcode hdecode

end Machine
end Sys2Proof
end

section
/-! PROOF of O7. The field checks of 30_encoding.md R104: each command's first test is the negation of
`Instr.fieldsLegal`, but WRREG and RDREG check the last sentence of R104 only after the register number (log entry 13). -/

namespace Sys2Proof.Machine

/-- A global register number is in the register map (30_encoding.md R110). -/
theorem regOfNumber_of_isGlobalRegNumber {n : BitVec 16} (h : isGlobalRegNumber n = true) :
    ∃ r, regOfNumber n = some r ∧ r.isGlobal = true := by
  simp only [isGlobalRegNumber, Bool.or_eq_true, beq_iff_eq] at h
  rcases h with ((((rfl | rfl) | rfl) | rfl) | rfl) | rfl <;> exact ⟨_, rfl, rfl⟩

/-- A global register named with a nonzero VS (30_encoding.md R104, last sentence). -/
theorem regAccessError_of_isGlobal {f : CmdFields} {r : RegId} (s : State) (hr : r.isGlobal = true) (hvs : f.vs ≠ 0) :
    regAccessError s f r = some .reservedField := by
  rw [regAccessError, if_pos (by simpa [hr] using hvs)]

theorem wrregState_reserved {f : CmdFields} (s : State) (h : (Instr.wrreg f).fieldsLegal = false) :
    wrregState f s = s.reject .reservedField := by
  by_cases hsel : f.sel = 0
  · obtain ⟨hglobal, hvs⟩ : isGlobalRegNumber f.imm = true ∧ f.vs ≠ 0 := by simpa [Instr.fieldsLegal, hsel] using h
    obtain ⟨r, hr, hscope⟩ := regOfNumber_of_isGlobalRegNumber hglobal
    simp [wrregState, hsel, hr, regAccessError_of_isGlobal s hscope hvs]
  · rw [wrregState, if_pos (by simpa using hsel)]

theorem rdregState_reserved {f : CmdFields} (s : State) (h : (Instr.rdreg f).fieldsLegal = false) :
    rdregState f s = s.reject .reservedField := by
  by_cases hunused : f.sel = 0 ∧ f.arg = 0
  · obtain ⟨hsel, harg⟩ := hunused
    obtain ⟨hglobal, hvs⟩ : isGlobalRegNumber f.imm = true ∧ f.vs ≠ 0 := by
      simpa [Instr.fieldsLegal, hsel, harg] using h
    obtain ⟨r, hr, hscope⟩ := regOfNumber_of_isGlobalRegNumber hglobal
    simp [rdregState, hsel, harg, hr, regAccessError_of_isGlobal s hscope hvs]
  · rw [rdregState, if_pos (by simpa [imp_iff_not_or] using hunused)]

/-- Settles O7: but for WRREG and RDREG, the command's first test rejects just where `Instr.fieldsLegal` is false. -/
theorem reservedFieldsAreRejected : Obligations.ReservedFieldsAreRejected := by
  intro i s h
  have rejected {t : State} (ht : t = s.reject .reservedField) : (.next t : Host.Outcome State Fault Refusal) =
      rejects s .reservedField := congrArg Host.Outcome.next ht
  cases i
  case wrreg f => exact rejected (wrregState_reserved s h)
  case rdreg f => exact rejected (rdregState_reserved s h)
  all_goals exact rejected (if_pos (by simpa [Instr.fieldsLegal, imp_iff_not_or, or_assoc] using h))

end Sys2Proof.Machine
end

section
/-! PROOF of O15. STATUS is its fields side by side (30_encoding.md R113). -/

namespace Sys2Proof.Machine

/-- STATUS[5:0]. -/
theorem Context.status_flags (c : Context) :
    c.status.getLsbD 0 = c.frameOpen ∧ c.status.getLsbD 1 = c.hdrPrev.isSome ∧ c.status.getLsbD 2 = c.hdrCorrected ∧
    c.status.getLsbD 3 = c.fatalSticky ∧ c.status.getLsbD 4 = c.hasOutput ∧
    c.status.getLsbD 5 = c.frameModeBit := by
  simp only [Context.status, BitVec.getLsbD_append, bit1, BitVec.getLsbD_ofBool]
  simp

/-- STATUS[63:6]: a slice of the view lies in one of its fields. -/
theorem Context.status_fields (c : Context) :
    c.status.extractLsb' 6 2 = 0 ∧ c.status.extractLsb' 8 4 = c.lastResult.code ∧ c.status.extractLsb' 12 4 = 0 ∧
    c.status.extractLsb' 16 8 = c.lastReason.code ∧ c.status.extractLsb' 24 8 = 0 ∧
    c.status.extractLsb' 32 16 = BitVec.ofNat 16 c.stripeCount ∧ c.status.extractLsb' 48 16 = 0 := by
  simp (disch := decide) only [Context.status, BitVec.extractLsb'_append_eq_of_le,
    BitVec.extractLsb'_append_eq_of_add_le, BitVec.extractLsb'_eq_self, Nat.reduceSub, and_self]

/-- STATUS[5] is the mode of an open frame (10_state.md R36). -/
theorem Context.frameModeBit_iff {c : Context} :
    c.frameModeBit = true ↔ c.frameOpen = true ∧ c.fd.mode = .stripe := by
  simp [Context.frameModeBit]

/-- Settles O15. -/
theorem statusBitLayout : Obligations.StatusBitLayout := by
  intro c
  obtain ⟨hopen, hholding, hcorrected, hsticky, houtput, hmode⟩ := c.status_flags
  exact ⟨hopen, hholding, hcorrected, hsticky, houtput, hmode ▸ Context.frameModeBit_iff, c.status_fields⟩

end Sys2Proof.Machine
end

section
/-! PROOF LAYER for 40_commands.md R157. The header's fields as numbers, each check of the validation over the raw words
(30_encoding.md R120), and the samples of a record as its words (R121). -/

namespace Sys2Proof.Machine

/-! ### The header's fields as numbers -/

section
variable (record : List Word)

theorem headerOf_rows : (headerOf record).rows = (recWord record 1).toNat / 2 ^ 16 := Word.toNat_highHalf _
theorem headerOf_cols : (headerOf record).cols = (recWord record 3).toNat / 2 ^ 16 := Word.toNat_highHalf _
theorem headerOf_startRow : (headerOf record).startRow.toNat = (recWord record 1).toNat % 2 ^ 16 := Word.toNat_lowHalf _
theorem headerOf_winRow0 : (headerOf record).winRow0.toNat = (recWord record 2).toNat % 2 ^ 16 := Word.toNat_lowHalf _
theorem headerOf_winNrows : (headerOf record).winNrows.toNat = (recWord record 2).toNat / 2 ^ 16 :=
  Word.toNat_highHalf _
theorem headerOf_n0 : (headerOf record).n0.toNat = (recWord record 4).toNat % 2 ^ 16 := Word.toNat_lowHalf _
theorem headerOf_n1 : (headerOf record).n1.toNat = (recWord record 4).toNat / 2 ^ 16 := Word.toNat_highHalf _

theorem headerOf_mode_eq_stripe_iff : (headerOf record).mode = .stripe ↔ (recWord record 0).getLsbD 8 = true := by
  simp [headerOf]

end

/-! ### The checks over the raw words -/

section
variable {p : Params} {record : List Word}

/-- Step 3. -/
theorem reservedHeaderZero_iff :
    reservedHeaderZero record = true ↔
      (recWord record 0).extractLsb' 12 4 = 0 ∧ (recWord record 0).extractLsb' 24 8 = 0 ∧
      recWord record 10 = 0 ∧ recWord record 11 = 0 := by
  simp only [reservedHeaderZero, Bool.and_eq_true, beq_iff_eq, and_assoc]

/-- Step 6. -/
theorem geometryLegal_headerOf_iff :
    geometryLegal p (headerOf record) = true ↔
      1 ≤ (recWord record 1).toNat / 2 ^ 16 ∧
      1 ≤ (recWord record 2).toNat / 2 ^ 16 ∧ (recWord record 2).toNat / 2 ^ 16 ≤ p.maxRows.val ∧
      1 ≤ (recWord record 3).toNat / 2 ^ 16 ∧ (recWord record 3).toNat / 2 ^ 16 ≤ p.maxCols.val ∧
      (recWord record 2).toNat % 2 ^ 16 ≤ (recWord record 1).toNat % 2 ^ 16 ∧
      (recWord record 1).toNat % 2 ^ 16 + (recWord record 1).toNat / 2 ^ 16 ≤
        (recWord record 2).toNat % 2 ^ 16 + (recWord record 2).toNat / 2 ^ 16 ∧
      1 ≤ (recWord record 3).toNat / 2 ^ 16 / (headerOf record).bin ∧
      ((recWord record 0).getLsbD 8 = false → 1 ≤ (recWord record 2).toNat / 2 ^ 16 / (headerOf record).bin) := by
  rw [geometryLegal_iff, headerOf_mode_eq_stripe_iff, headerOf_rows, headerOf_cols, headerOf_startRow, headerOf_winRow0,
    headerOf_winNrows, or_iff_not_imp_left, Bool.not_eq_true]
  tauto

/-- Step 7. -/
theorem frequenciesLegal_headerOf_iff :
    frequenciesLegal (headerOf record) = true ↔
      1 ≤ (recWord record 4).toNat % 2 ^ 16 ∧
      (recWord record 4).toNat / 2 ^ 16 = (recWord record 4).toNat % 2 ^ 16 + 1 ∧
      (headerOf record).freq0.isFinite = true ∧ NUM.one.le (headerOf record).freq0 = true ∧
      (headerOf record).freq1.isFinite = true ∧ (headerOf record).freq0.lt (headerOf record).freq1 = true := by
  rw [frequenciesLegal_iff, headerOf_n0, headerOf_n1, and_assoc]

/-- Step 8. -/
theorem lengthLegal_headerOf_iff {n : Nat} :
    lengthLegal (headerOf record) n = true ↔
      (recWord record 9).toNat = 6 * (headerOf record).rotations * ((recWord record 1).toNat / 2 ^ 16) *
        ((recWord record 3).toNat / 2 ^ 16) ∧
      n = 12 + (recWord record 9).toNat := by
  rw [← headerOf_rows, ← headerOf_cols]
  simp only [lengthLegal, Bool.and_eq_true, beq_iff_eq, headerOf]

/-- Step 9. -/
theorem samplesLegal_iff {payload : List Word} :
    samplesLegal p payload = true ↔ ∀ x ∈ payload, x.toNat < 2 ^ p.rawBits.val := by
  simp only [samplesLegal, List.all_eq_true, decide_eq_true_eq]

/-! ### Validation, step by step -/

theorem validate_of_short (n : Nat) (h : record.length < 12) : validate p n record = .unattributed .badLength :=
  if_pos h

theorem validate_of_badVsid {n : Nat} (hlen : 12 ≤ record.length) (hv : n ≤ (headerOf record).vsid.toNat) :
    validate p n record = .unattributed .badVsid := by
  rw [validate, if_neg (by omega), if_pos hv]

/-- Steps 3 to 9 in order, for any reading of the checks that are more than one comparison: each fails with its own
reason when the ones before it hold, attributed to VSID. -/
theorem validate_in_order {n : Nat} {c3 c6 c7 c8 c9 : Prop} (hlen : 12 ≤ record.length)
    (hv : (headerOf record).vsid.toNat < n) (h3 : reservedHeaderZero record = true ↔ c3)
    (h6 : geometryLegal p (headerOf record) = true ↔ c6) (h7 : frequenciesLegal (headerOf record) = true ↔ c7)
    (h8 : lengthLegal (headerOf record) record.length = true ↔ c8) (h9 : samplesLegal p (record.drop 12) = true ↔ c9) :
    let v := (headerOf record).vsid.toNat
    let nrot := (headerOf record).rotations
    let b := (headerOf record).bin
    (¬c3 → validate p n record = .malformed v .hdrReserved) ∧
    (c3 → nrot = 0 → validate p n record = .malformed v .badNrot) ∧
    (c3 → nrot ≠ 0 → b = 0 → validate p n record = .malformed v .badBinning) ∧
    (c3 → nrot ≠ 0 → b ≠ 0 → ¬c6 → validate p n record = .malformed v .badGeometry) ∧
    (c3 → nrot ≠ 0 → b ≠ 0 → c6 → ¬c7 → validate p n record = .malformed v .badFreq) ∧
    (c3 → nrot ≠ 0 → b ≠ 0 → c6 → c7 → ¬c8 → validate p n record = .malformed v .badLength) ∧
    (c3 → nrot ≠ 0 → b ≠ 0 → c6 → c7 → c8 → ¬c9 → validate p n record = .malformed v .rawRange) ∧
    (c3 → nrot ≠ 0 → b ≠ 0 → c6 → c7 → c8 → c9 → validate p n record = .valid v (roiOf record)) := by
  have hlen' : ¬record.length < 12 := not_lt.mpr hlen
  have hv' : ¬n ≤ (headerOf record).vsid.toNat := not_le.mpr hv
  simp only [← h3, ← h6, ← h7, ← h8, ← h9, validate, if_neg hlen', if_neg hv', headerFault]
  and_intros <;> intros <;> simp [*]

end

/-- A sample of a record is the word at its place behind the header (30_encoding.md R121). -/
theorem roiOf_raw (record : List Word) (f j i c t : Nat) :
    (roiOf record).raw f j i c t = (recWord record (12 + sampleIndex (headerOf record) f j i c t)).toNat := by
  simp only [RoiRecord.raw, roiOf, recWord, List.getD_eq_getElem?_getD, List.getElem?_drop]

end Sys2Proof.Machine
end

section
/-! PROOF of O20. -/

namespace Sys2Proof.Machine

/-- Settles O20: each check is the stated one over the raw words, and the header and samples are read where R120 and
R121 put them. -/
theorem validationStepsInOrder : Obligations.ValidationStepsInOrder := by
  intro p n record w v nrot stripe b startRow nRows winRow0 winNrows winNcols n0 n1 freq0 freq1 c3 c6 c7 c8 c9
  have h3 : reservedHeaderZero record = true ↔ c3 := reservedHeaderZero_iff
  have h6 : geometryLegal p (headerOf record) = true ↔ c6 := geometryLegal_headerOf_iff
  have h7 : frequenciesLegal (headerOf record) = true ↔ c7 := frequenciesLegal_headerOf_iff
  have h8 : lengthLegal (headerOf record) record.length = true ↔ c8 := lengthLegal_headerOf_iff
  have h9 : samplesLegal p (record.drop 12) = true ↔ c9 := samplesLegal_iff
  refine ⟨validate_of_short n, fun hlen => ⟨validate_of_badVsid hlen, fun hv => ?_⟩⟩
  obtain ⟨step3, step4, step5, step6, step7, step8, step9, passes⟩ := validate_in_order hlen hv h3 h6 h7 h8 h9
  refine ⟨step3, step4, step5, step6, step7, step8, step9, fun hc3 hnrot hb hc6 hc7 hc8 hc9 =>
    ⟨roiOf record, passes hc3 hnrot hb hc6 hc7 hc8 hc9, rfl, rfl, fun f j i c t _ _ _ _ _ => ?_⟩⟩
  rw [roiOf_raw, sampleIndex, headerOf_rows, headerOf_cols]
  rfl

end Sys2Proof.Machine
end

section
/-! PROOF LAYER for 40_commands.md R152 to R165. The checks the commands share, and what each command does once they
pass: one equation per command, with the context of the virtual sensor it addresses. -/

namespace Sys2Proof.Machine

/-! ### Fields and the virtual sensor -/

/-- ARG[63:32] as a number (30_encoding.md R101). -/
theorem rowOf_eq (f : CmdFields) : rowOf f = f.arg.toNat / 2 ^ 32 := by
  have harg : f.arg.toNat < 2 ^ 64 := f.arg.isLt
  rw [rowOf, BitVec.extractLsb'_toNat, Nat.shiftRight_eq_div_pow, Nat.mod_eq_of_lt (by omega)]

/-- ARG[31:0] as a number (30_encoding.md R101). -/
theorem colOf_eq (f : CmdFields) : colOf f = f.arg.toNat % 2 ^ 32 := by
  simp [colOf, BitVec.extractLsb'_toNat]

/-- IMM[15:1], which WRMASK does not use (30_encoding.md R104). -/
theorem unusedMaskBits_iff {imm : BitVec 16} : imm.extractLsb' 1 15 = 0 ↔ imm.toNat / 2 = 0 := by
  have himm : imm.toNat < 2 ^ 16 := imm.isLt
  rw [← BitVec.toNat_inj, BitVec.extractLsb'_toNat, Nat.shiftRight_eq_div_pow, Nat.mod_eq_of_lt (by omega)]
  rfl

/-- IMM is the bit that WRMASK writes (30_encoding.md R104), when the bits it does not use are zero. -/
theorem maskBit_eq_decide {imm : BitVec 16} (himm : imm.toNat / 2 = 0) : imm.getLsbD 0 = decide (imm = 1) := by
  have hcases : imm = 0 ∨ imm = 1 := by bv_omega
  rcases hcases with rfl | rfl <;> rfl

/-- The two bounds that RDOUT, WRMASK and RDMASK check of a pixel. -/
theorem not_outside {rows cols row col : Nat} (hr : row < rows) (hc : col < cols) : ¬(rows ≤ row ∨ cols ≤ col) := by
  omega

/-- VSRESET, RDOUT, RDDESC, WRMASK and RDMASK check the virtual sensor right after their fields. -/
theorem exec_of_badVs {f : CmdFields} {s : State} {i : Instr}
    (hi : i = .vsreset f ∨ i = .rdout f ∨ i = .rddesc f ∨ i = .wrmask f ∨ i = .rdmask f)
    (hlegal : i.fieldsLegal = true) (hv : s.ctxs.length ≤ f.vs.toNat) : exec i s = rejects s .badVs := by
  rcases hi with rfl | rfl | rfl | rfl | rfl
  all_goals
    refine congrArg Host.Outcome.next ((if_neg ?_).trans (if_pos hv))
    simpa [Instr.fieldsLegal, and_assoc] using hlegal

/-- A virtual sensor with a context passes the check. -/
theorem State.not_numVs_le {s : State} {v : Nat} {c : Context} (h : s.ctxs[v]? = some c) : ¬s.numVs ≤ v :=
  not_le.mpr (State.lt_of_getElem? h)

section
variable {f : CmdFields} {s : State} {c : Context}

theorem vsresetState_of_ctx (hsel : f.sel = 0) (himm : f.imm = 0) (harg : f.arg = 0) (hc : s.ctxs[vsOf f]? = some c) :
    vsresetState f s = (s.setCtx (vsOf f) c.restart).answer 0 := by
  rw [vsresetState, if_neg (by simp [hsel, himm, harg]), if_neg (State.not_numVs_le hc), State.ctx_of_getElem? hc]

theorem rdoutState_of_ctx (himm : f.imm = 0) (hc : s.ctxs[vsOf f]? = some c) :
    rdoutState f s =
      if 3 < f.sel.toNat then s.reject .badIndex
      else if c.hasOutput = false then s.reject .noOutput
      else if c.desc.outRows.toNat ≤ rowOf f ∨ c.desc.outCols.toNat ≤ colOf f then s.reject .badIndex
      else s.answer ((c.outWord f.sel.toNat (rowOf f) (colOf f)).setWidth 64) := by
  rw [rdoutState, if_neg (by simp [himm]), if_neg (State.not_numVs_le hc), State.ctx_of_getElem? hc]

theorem rddescState_of_ctx (himm : f.imm = 0) (harg : f.arg = 0) (hc : s.ctxs[vsOf f]? = some c) :
    rddescState f s =
      if 5 < f.sel.toNat then s.reject .badIndex
      else if c.hasOutput = false then s.reject .noOutput
      else s.answer ((c.desc.field f.sel.toNat).setWidth 64) := by
  rw [rddescState, if_neg (by simp [himm, harg]), if_neg (State.not_numVs_le hc), State.ctx_of_getElem? hc]

theorem wrmaskState_of_ctx (hsel : f.sel = 0) (himm : f.imm.toNat / 2 = 0) (hc : s.ctxs[vsOf f]? = some c) :
    wrmaskState f s =
      if s.params.maxRows.val ≤ rowOf f ∨ s.params.maxCols.val ≤ colOf f then s.reject .badIndex
      else (s.setCtx (vsOf f) (c.setMaskBit (rowOf f) (colOf f) (f.imm.getLsbD 0))).answer 0 := by
  rw [wrmaskState, if_neg (by simp [hsel, unusedMaskBits_iff.mpr himm]), if_neg (State.not_numVs_le hc),
    State.ctx_of_getElem? hc]

theorem rdmaskState_of_ctx (hsel : f.sel = 0) (himm : f.imm = 0) (hc : s.ctxs[vsOf f]? = some c) :
    rdmaskState f s =
      if s.params.maxRows.val ≤ rowOf f ∨ s.params.maxCols.val ≤ colOf f then s.reject .badIndex
      else s.answer ((bit1 (c.maskBit (rowOf f) (colOf f))).setWidth 64) := by
  rw [rdmaskState, if_neg (by simp [hsel, himm]), if_neg (State.not_numVs_le hc), State.ctx_of_getElem? hc]

end

end Sys2Proof.Machine
end

section
/-! PROOF of O9, O10 and O12. NOP, RESET and VSRESET (40_commands.md R150 to R152). -/

namespace Sys2Proof.Machine

/-- Settles O9: the two clauses are the two branches of the field check. -/
theorem nopAnswersOk : Obligations.NopAnswersOk := by
  intro f s
  constructor
  · rintro ⟨hvs, hsel, himm, harg⟩
    exact congrArg Host.Outcome.next (if_neg (by simp [hvs, hsel, himm, harg]))
  · intro hfields
    exact reservedFieldsAreRejected (.nop f) s (by simpa [Instr.fieldsLegal] using hfields)

/-- Settles O10: an accepted RESET leaves the power-on state of its device (10_state.md R54). -/
theorem resetCommandRestoresPowerOn : Obligations.ResetCommandRestoresPowerOn := by
  intro f s
  constructor
  · rintro ⟨hvs, hsel, himm, harg⟩
    exact exec_reset_accepted s hvs hsel himm harg
  · intro hfields
    exact reservedFieldsAreRejected (.reset f) s (by simpa [Instr.fieldsLegal] using hfields)

/-- Settles O12: what `Context.restart` keeps is what R432 lists. -/
theorem vsresetRestartsContext : Obligations.VsresetRestartsContext := by
  intro f s
  refine ⟨fun hfields => ?_, fun hsel himm harg hv => ?_, fun c hsel himm harg hc => ?_⟩
  · exact reservedFieldsAreRejected (.vsreset f) s (by simpa [Instr.fieldsLegal] using hfields)
  · exact exec_of_badVs (.inl rfl) (by simp [Instr.fieldsLegal, hsel, himm, harg]) hv
  · exact congrArg Host.Outcome.next (vsresetState_of_ctx hsel himm harg hc)

end Sys2Proof.Machine
end

section
/-! PROOF of O16 and O17. RDOUT and RDDESC (40_commands.md R162, R163). -/

namespace Sys2Proof.Machine

/-- Settles O16: the checks of `rdoutState_of_ctx` in their order, then one map per selector. -/
theorem rdoutReadsOutputWord : Obligations.RdoutReadsOutputWord := by
  intro f s row col m
  refine ⟨fun himm => ?_, fun himm hv => ?_, fun c himm hc => ?_⟩
  · exact reservedFieldsAreRejected (.rdout f) s (by simpa [Instr.fieldsLegal] using himm)
  · exact exec_of_badVs (.inr (.inl rfl)) (by simpa [Instr.fieldsLegal] using himm) hv
  rw [exec_rdout, rdoutState_of_ctx himm hc, rowOf_eq, colOf_eq]
  refine ⟨fun hm => ?_, fun hm hout => ?_, fun hm hout hpixel => ?_, fun hout hrow hcol => ?_⟩
  · rw [if_pos hm]
    rfl
  · rw [if_neg (not_lt.mpr hm), if_pos hout]
    rfl
  · rw [if_neg (not_lt.mpr hm), if_neg (by simp [hout]), if_pos hpixel]
    rfl
  · have hpixel : ¬(c.desc.outRows.toNat ≤ row ∨ c.desc.outCols.toNat ≤ col) := not_outside hrow hcol
    refine ⟨?range, ?signal, ?background, ?snr⟩ <;> intro hm <;>
      rw [if_neg (by omega), if_neg (by simp [hout]), if_neg hpixel, show f.sel.toNat = _ from hm] <;> rfl

/-- Settles O17: the checks of `rddescState_of_ctx` in their order, then one field per selector. -/
theorem rddescReadsDescriptorField : Obligations.RddescReadsDescriptorField := by
  intro f s k
  refine ⟨fun hfields => ?_, fun himm harg hv => ?_, fun c himm harg hc => ?_⟩
  · exact reservedFieldsAreRejected (.rddesc f) s (by simpa [Instr.fieldsLegal] using hfields)
  · exact exec_of_badVs (.inr (.inr (.inl rfl))) (by simp [Instr.fieldsLegal, himm, harg]) hv
  rw [exec_rddesc, rddescState_of_ctx himm harg hc]
  refine ⟨fun hk => ?_, fun hk hout => ?_, fun hout => ?_⟩
  · rw [if_pos hk]
    rfl
  · rw [if_neg (not_lt.mpr hk), if_pos hout]
    rfl
  · refine ⟨?outRows, ?outCols, ?topRow, ?leftCol, ?rowStep, ?colStep⟩ <;> intro hk <;>
      rw [if_neg (by omega), if_neg (by simp [hout]), show f.sel.toNat = _ from hk] <;> rfl

end Sys2Proof.Machine
end

section
/-! PROOF of O18 and O19. WRMASK and RDMASK (40_commands.md R164, R165). -/

namespace Sys2Proof.Machine

/-- Settles O18: the write is one `Memory.write` of a canonical map, whose laws give the written bit and the others. -/
theorem wrmaskWritesOneBit : Obligations.WrmaskWritesOneBit := by
  intro f s row col
  refine ⟨fun hfields => ?_, fun hsel himm hv => ?_, fun hsel himm hv hpixel => ?_,
    fun c hsel himm hc hcanon hrow hcol => ?_⟩
  · rw [← unusedMaskBits_iff] at hfields
    exact reservedFieldsAreRejected (.wrmask f) s (by simpa [Instr.fieldsLegal] using hfields)
  · exact exec_of_badVs (.inr (.inr (.inr (.inl rfl))))
      (by simp [Instr.fieldsLegal, hsel, unusedMaskBits_iff.mpr himm]) hv
  · rw [exec_wrmask, wrmaskState_of_ctx hsel himm (State.getElem?_of_lt hv), rowOf_eq, colOf_eq, if_pos hpixel]
    rfl
  · obtain ⟨-, -, -, hpmask⟩ := Context.memoryCanonical_iff.mp hcanon
    refine ⟨Memory.write true c.pmask (pixKey row col) (f.imm.getLsbD 0), ?_, ?_, fun k hk => ?_⟩
    · rw [exec_wrmask, wrmaskState_of_ctx hsel himm hc, rowOf_eq, colOf_eq, if_neg (not_outside hrow hcol)]
      rfl
    · rw [Memory.read_write_same _ hpmask, maskBit_eq_decide himm]
    · exact Memory.read_write_other _ hk

/-- A bit read as a 64-bit value. -/
theorem bit1_setWidth (b : Bool) : (bit1 b).setWidth 64 = if b then 1 else 0 := by
  cases b <;> rfl

/-- Settles O19: the checks of `rdmaskState_of_ctx` in their order, then the bit. -/
theorem rdmaskReadsOneBit : Obligations.RdmaskReadsOneBit := by
  intro f s row col
  refine ⟨fun hfields => ?_, fun hsel himm hv => ?_, fun c hsel himm hc => ?_⟩
  · exact reservedFieldsAreRejected (.rdmask f) s (by simpa [Instr.fieldsLegal] using hfields)
  · exact exec_of_badVs (.inr (.inr (.inr (.inr rfl)))) (by simp [Instr.fieldsLegal, hsel, himm]) hv
  rw [exec_rdmask, rdmaskState_of_ctx hsel himm hc, rowOf_eq, colOf_eq, bit1_setWidth]
  refine ⟨fun hpixel => ?_, fun hrow hcol => ?_⟩
  · rw [if_pos hpixel]
    rfl
  · rw [if_neg (not_outside hrow hcol)]
    rfl

end Sys2Proof.Machine
end

section
/-! PROOF LAYER for 40_commands.md R153 and R154. The register map by number (30_encoding.md R110), and what WRREG and
RDREG do by the register and its access. -/

namespace Sys2Proof.Machine

/-- The number column of 30_encoding.md R110. -/
def RegId.number : RegId → Nat
  | .ctrl => 0x00
  | .snrThreshold => 0x01
  | .rangeOffset => 0x10
  | .rangeLimit => 0x11
  | .status => 0x20
  | .frameCount => 0x21
  | .paramNumVs => 0x40
  | .paramMaxRows => 0x41
  | .paramMaxCols => 0x42
  | .paramRawBits => 0x43

theorem regOfNumber_eq_some_iff {n : BitVec 16} {r : RegId} : regOfNumber n = some r ↔ n.toNat = r.number := by
  constructor
  · intro h
    unfold regOfNumber at h
    split at h <;> cases h <;> assumption
  · intro h
    rw [regOfNumber, h]
    cases r <;> rfl

/-- The numbers of the global registers (30_encoding.md R110). -/
def IsGlobalNumber (n : Nat) : Prop := n = 0x00 ∨ n = 0x01 ∨ n = 0x40 ∨ n = 0x41 ∨ n = 0x42 ∨ n = 0x43

/-- The numbers of the registers of one virtual sensor. -/
def IsPerVsNumber (n : Nat) : Prop := n = 0x10 ∨ n = 0x11 ∨ n = 0x20 ∨ n = 0x21

/-- The numbers of the read-only registers. -/
def IsReadOnlyNumber (n : Nat) : Prop := n = 0x20 ∨ n = 0x21 ∨ n = 0x40 ∨ n = 0x41 ∨ n = 0x42 ∨ n = 0x43

theorem RegId.number_scope (r : RegId) : IsGlobalNumber r.number ∨ IsPerVsNumber r.number := by
  unfold IsGlobalNumber IsPerVsNumber
  cases r <;> decide

theorem RegId.isReadOnly_of_number {r : RegId} (h : IsReadOnlyNumber r.number) : r.isReadOnly = true := by
  unfold IsReadOnlyNumber at h
  revert h
  cases r <;> decide

section
variable {n : BitVec 16}

theorem exists_reg_of_isGlobalNumber (h : IsGlobalNumber n.toNat) :
    ∃ r : RegId, n.toNat = r.number ∧ r.isGlobal = true := by
  rcases h with h | h | h | h | h | h
  exacts [⟨.ctrl, h, rfl⟩, ⟨.snrThreshold, h, rfl⟩, ⟨.paramNumVs, h, rfl⟩, ⟨.paramMaxRows, h, rfl⟩,
    ⟨.paramMaxCols, h, rfl⟩, ⟨.paramRawBits, h, rfl⟩]

theorem exists_reg_of_isPerVsNumber (h : IsPerVsNumber n.toNat) :
    ∃ r : RegId, n.toNat = r.number ∧ r.isGlobal = false := by
  rcases h with h | h | h | h
  exacts [⟨.rangeOffset, h, rfl⟩, ⟨.rangeLimit, h, rfl⟩, ⟨.status, h, rfl⟩, ⟨.frameCount, h, rfl⟩]

/-- A number of neither scope is reserved (20_memory.md R93). -/
theorem regOfNumber_reserved (hglobal : ¬IsGlobalNumber n.toNat) (hperVs : ¬IsPerVsNumber n.toNat) :
    regOfNumber n = none := by
  by_contra h
  obtain ⟨r, hr⟩ := Option.ne_none_iff_exists'.mp h
  rw [regOfNumber_eq_some_iff.mp hr] at hglobal hperVs
  exact r.number_scope.elim hglobal hperVs

/-- `Instr.fieldsLegal` takes the scope of a number from the same list (30_encoding.md R104, last sentence). -/
theorem isGlobalRegNumber_of_isGlobalNumber (h : IsGlobalNumber n.toNat) : isGlobalRegNumber n = true := by
  obtain ⟨r, hnum, hg⟩ := exists_reg_of_isGlobalNumber h
  rw [isGlobal_of_regOfNumber (regOfNumber_eq_some_iff.mpr hnum), hg]

end

section
variable {f : CmdFields} {s : State} {r : RegId}

theorem regAccessError_of_global (hg : r.isGlobal = true) (hvs : f.vs = 0) : regAccessError s f r = none :=
  (regAccessError_none s f r).mpr ⟨fun _ => hvs, fun h => absurd (hg.symm.trans h) (by decide)⟩

theorem regAccessError_of_perVs (hg : r.isGlobal = false) (hv : f.vs.toNat < s.ctxs.length) :
    regAccessError s f r = none :=
  (regAccessError_none s f r).mpr ⟨fun h => absurd (hg.symm.trans h) (by decide), fun _ => hv⟩

theorem regAccessError_of_badVs (hg : r.isGlobal = false) (hv : s.ctxs.length ≤ f.vs.toNat) :
    regAccessError s f r = some .badVs := by
  have hv' : s.numVs ≤ vsOf f := hv
  simp [regAccessError, hg, hv']

/-! ### WRREG -/

theorem exec_wrreg_of_reserved (hsel : f.sel = 0) (hr : regOfNumber f.imm = none) :
    exec (.wrreg f) s = rejects s .badReg := by
  rw [exec_wrreg, wrregState, if_neg (by simp [hsel]), hr]
  rfl

theorem exec_wrreg_of_accessError {reason : Reason} (hsel : f.sel = 0) (hnum : f.imm.toNat = r.number)
    (hacc : regAccessError s f r = some reason) : exec (.wrreg f) s = rejects s reason := by
  rw [exec_wrreg, wrregState, if_neg (by simp [hsel]), regOfNumber_eq_some_iff.mpr hnum]
  simp only [hacc]
  rfl

/-- The checks of WRREG that are left when the register may be accessed. -/
theorem exec_wrreg_of_access (hsel : f.sel = 0) (hnum : f.imm.toNat = r.number) (hacc : regAccessError s f r = none) :
    exec (.wrreg f) s =
      if r.isReadOnly then rejects s .readOnly
      else if r.legalValue f.arg then .next ((s.writeReg r (vsOf f) f.arg).answer 0)
      else rejects s .illegalValue := by
  rw [exec_wrreg, wrregState, if_neg (by simp [hsel]), regOfNumber_eq_some_iff.mpr hnum]
  simp only [hacc]
  cases r.isReadOnly <;> cases r.legalValue f.arg <;> rfl

theorem exec_wrreg_of_readOnly (hsel : f.sel = 0) (hnum : f.imm.toNat = r.number) (hacc : regAccessError s f r = none)
    (hro : IsReadOnlyNumber f.imm.toNat) : exec (.wrreg f) s = rejects s .readOnly := by
  rw [exec_wrreg_of_access hsel hnum hacc, if_pos (RegId.isReadOnly_of_number (hnum ▸ hro))]

/-- A write to a read-write register succeeds just when the value is legal. -/
theorem exec_wrreg_of_readWrite (hsel : f.sel = 0) (hnum : f.imm.toNat = r.number) (hacc : regAccessError s f r = none)
    (hrw : r.isReadOnly = false) :
    (r.legalValue f.arg = true → exec (.wrreg f) s = .next ((s.writeReg r (vsOf f) f.arg).answer 0)) ∧
    (r.legalValue f.arg = false → exec (.wrreg f) s = rejects s .illegalValue) := by
  rw [exec_wrreg_of_access hsel hnum hacc, hrw]
  exact ⟨fun h => by simp [h], fun h => by simp [h]⟩

/-! ### RDREG -/

theorem exec_rdreg_of_reserved (hsel : f.sel = 0) (harg : f.arg = 0) (hr : regOfNumber f.imm = none) :
    exec (.rdreg f) s = rejects s .badReg := by
  rw [exec_rdreg, rdregState, if_neg (by simp [hsel, harg]), hr]
  rfl

theorem exec_rdreg_of_accessError {reason : Reason} (hsel : f.sel = 0) (harg : f.arg = 0)
    (hnum : f.imm.toNat = r.number) (hacc : regAccessError s f r = some reason) :
    exec (.rdreg f) s = rejects s reason := by
  rw [exec_rdreg, rdregState, if_neg (by simp [hsel, harg]), regOfNumber_eq_some_iff.mpr hnum]
  simp only [hacc]
  rfl

theorem exec_rdreg_of_access (hsel : f.sel = 0) (harg : f.arg = 0) (hnum : f.imm.toNat = r.number)
    (hacc : regAccessError s f r = none) : exec (.rdreg f) s = answers s (s.readReg r (vsOf f)) := by
  rw [exec_rdreg, rdregState, if_neg (by simp [hsel, harg]), regOfNumber_eq_some_iff.mpr hnum]
  simp only [hacc]
  rfl

end

/-- The legal values of CTRL (10_state.md R32), of the value as a number. -/
theorem ctrlLegal_iff {x : BitVec 64} :
    ctrlLegal x = true ↔ x.toNat / 2 ^ 10 = 0 ∧ x.toNat % 4 ≠ 3 ∧ x.toNat / 8 % 8 ≤ 5 := by
  have hx : x.toNat < 2 ^ 64 := x.isLt
  simp only [ctrlLegal, Bool.and_eq_true, beq_iff_eq, bne_iff_ne, decide_eq_true_eq, ne_eq, ← BitVec.toNat_inj,
    BitVec.extractLsb'_toNat, Nat.shiftRight_eq_div_pow, and_assoc]
  have h0 : (0 : BitVec 54).toNat = 0 := rfl
  have h3 : (3 : BitVec 2).toNat = 3 := rfl
  rw [h0, h3]
  omega

end Sys2Proof.Machine
end

section
/-! PROOF of O13 and O14. WRREG and RDREG (40_commands.md R153, R154). -/

namespace Sys2Proof.Machine

/-- Settles O13: the rejections by the scope and the access of the number, then one write per read-write register. -/
theorem wrregWritesRegister : Obligations.WrregWritesRegister := by
  intro f s r x isGlobal perVs readOnly
  refine ⟨fun hsel => reservedFieldsAreRejected (.wrreg f) s (by simpa [Instr.fieldsLegal] using (absurd · hsel)),
    fun hsel => ⟨?reserved, ?globalVs, ?badVs, ?globalReadOnly, ?perVsReadOnly, ?ctrl, ?snrThreshold, ?rangeOffset,
      ?rangeLimit⟩⟩
  case reserved => exact fun hglobal hperVs => exec_wrreg_of_reserved hsel (regOfNumber_reserved hglobal hperVs)
  case globalVs =>
    intro hglobal hvs
    have hnum : isGlobalRegNumber f.imm = true := isGlobalRegNumber_of_isGlobalNumber hglobal
    exact reservedFieldsAreRejected (.wrreg f) s (by simpa [Instr.fieldsLegal, hnum] using fun _ => hvs)
  case badVs =>
    intro hperVs hv
    obtain ⟨r, hnum, hg⟩ := exists_reg_of_isPerVsNumber hperVs
    exact exec_wrreg_of_accessError hsel hnum (regAccessError_of_badVs hg hv)
  case globalReadOnly =>
    intro hglobal hvs hro
    obtain ⟨r, hnum, hg⟩ := exists_reg_of_isGlobalNumber hglobal
    exact exec_wrreg_of_readOnly hsel hnum (regAccessError_of_global hg hvs) hro
  case perVsReadOnly =>
    intro hperVs hv hro
    obtain ⟨r, hnum, hg⟩ := exists_reg_of_isPerVsNumber hperVs
    exact exec_wrreg_of_readOnly hsel hnum (regAccessError_of_perVs hg hv) hro
  case ctrl =>
    intro hnum hvs
    obtain ⟨hwrite, hreject⟩ :=
      exec_wrreg_of_readWrite (r := .ctrl) hsel hnum (regAccessError_of_global rfl hvs) rfl
    exact ⟨fun hx => hwrite (ctrlLegal_iff.mpr hx), fun hx => hreject (Bool.eq_false_iff.mpr (mt ctrlLegal_iff.mp hx))⟩
  case snrThreshold =>
    intro hnum hvs
    obtain ⟨hwrite, hreject⟩ :=
      exec_wrreg_of_readWrite (r := .snrThreshold) hsel hnum (regAccessError_of_global rfl hvs) rfl
    exact ⟨fun hx => hwrite (congrArg not hx), fun hx => hreject (congrArg not hx)⟩
  case rangeOffset =>
    intro c hnum hc
    obtain rfl : s.ctx (vsOf f) = c := State.ctx_of_getElem? hc
    exact exec_wrreg_of_readWrite (r := .rangeOffset) hsel hnum
      (regAccessError_of_perVs rfl (State.lt_of_getElem? hc)) rfl
  case rangeLimit =>
    intro c hnum hc
    obtain rfl : s.ctx (vsOf f) = c := State.ctx_of_getElem? hc
    obtain ⟨hwrite, hreject⟩ := exec_wrreg_of_readWrite (r := .rangeLimit) hsel hnum
      (regAccessError_of_perVs rfl (State.lt_of_getElem? hc)) rfl
    exact ⟨fun hx => hwrite (congrArg not hx), fun hx => hreject (congrArg not hx)⟩

/-- Settles O14: the rejections by the scope of the number, then one value per register. -/
theorem rdregReadsRegister : Obligations.RdregReadsRegister := by
  intro f s r isGlobal perVs
  refine ⟨fun hfields => ?_, fun hsel harg => ⟨?reserved, ?globalVs, ?badVs, fun hvs => ?global, fun c hc => ?perVs⟩⟩
  · exact reservedFieldsAreRejected (.rdreg f) s
      (by simpa [Instr.fieldsLegal] using fun hsel harg => absurd ⟨hsel, harg⟩ hfields)
  case reserved => exact fun hglobal hperVs => exec_rdreg_of_reserved hsel harg (regOfNumber_reserved hglobal hperVs)
  case globalVs =>
    intro hglobal hvs
    have hnum : isGlobalRegNumber f.imm = true := isGlobalRegNumber_of_isGlobalNumber hglobal
    exact reservedFieldsAreRejected (.rdreg f) s (by simpa [Instr.fieldsLegal, hnum] using fun _ _ => hvs)
  case badVs =>
    intro hperVs hv
    obtain ⟨r, hnum, hg⟩ := exists_reg_of_isPerVsNumber hperVs
    exact exec_rdreg_of_accessError hsel harg hnum (regAccessError_of_badVs hg hv)
  case global =>
    have value {reg : RegId} (hg : reg.isGlobal = true) (hnum : r = reg.number) :
        exec (.rdreg f) s = answers s (s.readReg reg (vsOf f)) :=
      exec_rdreg_of_access hsel harg hnum (regAccessError_of_global hg hvs)
    exact ⟨value (reg := .ctrl) rfl, value (reg := .snrThreshold) rfl, value (reg := .paramNumVs) rfl,
      value (reg := .paramMaxRows) rfl, value (reg := .paramMaxCols) rfl, value (reg := .paramRawBits) rfl⟩
  case perVs =>
    obtain rfl : s.ctx (vsOf f) = c := State.ctx_of_getElem? hc
    have value {reg : RegId} (hg : reg.isGlobal = false) (hnum : r = reg.number) :
        exec (.rdreg f) s = answers s (s.readReg reg (vsOf f)) :=
      exec_rdreg_of_access hsel harg hnum (regAccessError_of_perVs hg (State.lt_of_getElem? hc))
    exact ⟨value (reg := .rangeOffset) rfl, value (reg := .rangeLimit) rfl, value (reg := .status) rfl,
      value (reg := .frameCount) rfl⟩

end Sys2Proof.Machine
end

section
/-! PROOF LAYER for 40_commands.md R155 and R158. The ROI command by the answer of the validation, and the sequence for
a ROI the conditioner passes through (41_roi_conditioner.md R200, R201): what it answers by the frame it meets. -/

namespace Sys2Proof.Machine

section
variable {f : CmdFields} {record : List Word} {s : State}

/-- The first check of the ROI command, passed. -/
theorem not_reserved_of_roiFieldsLegal (hlegal : roiFieldsLegal f = true) :
    ¬(f.vs != 0 || f.sel != 0 || f.imm != 0 || f.arg.extractLsb' 32 32 != 0) = true := by
  simpa [roiFieldsLegal, and_assoc] using hlegal

theorem exec_roi_of_unattributed {reason : Reason} (hlegal : roiFieldsLegal f = true)
    (hval : validate s.params s.ctxs.length record = .unattributed reason) :
    exec (.roi f record) s = .next (s.respond .fatal reason 0) := by
  rw [exec_roi, roiState, if_neg (not_reserved_of_roiFieldsLegal hlegal), State.numVs, hval]

theorem exec_roi_of_malformed {reason : Reason} {v : Nat} {c : Context} (hlegal : roiFieldsLegal f = true)
    (hval : validate s.params s.ctxs.length record = .malformed v reason) (hc : s.ctxs[v]? = some c) :
    exec (.roi f record) s = afterRoi s v (c.fatal reason) .fatal reason := by
  rw [exec_roi, roiState, if_neg (not_reserved_of_roiFieldsLegal hlegal), State.numVs, hval,
    ← State.ctx_of_getElem? hc]
  rfl

/-- A valid record is sequenced, and its result recorded (40_commands.md R155). -/
theorem exec_roi_of_valid {v : Nat} {c : Context} {roi : RoiRecord} {o : RoiOutcome} (hlegal : roiFieldsLegal f = true)
    (hval : validate s.params s.ctxs.length record = .valid v roi) (hc : s.ctxs[v]? = some c)
    (ho : sequenceRoi s.params s.ctrl s.snrThreshold c roi = o) :
    exec (.roi f record) s = afterRoi s v o.ctx o.result o.reason := by
  rw [exec_roi, roiState, if_neg (not_reserved_of_roiFieldsLegal hlegal), State.numVs, hval, ← ho,
    ← State.ctx_of_getElem? hc]
  rfl

end

section
variable {p : Params} {ctrl : BitVec 32} {thr : NUM} {c : Context} {roi : RoiRecord}

@[simp] theorem derotate_header (roi : RoiRecord) : (derotate roi).header = roi.header := rfl

/-- With HDR not active the ROI itself goes on to the frame assembler (41_roi_conditioner.md R201). -/
theorem sequenceRoi_of_inactive (hact : hdrActive ctrl roi.header = false) :
    sequenceRoi p ctrl thr c roi = frameStep p ctrl thr c (derotate roi) := by
  simp only [sequenceRoi, condition, hact, Bool.not_false, if_true]

/-- The frame that a ROI with header `h` is assembled into: the one it opens, or the open one. -/
def frameFor (c : Context) (h : RoiHeader) : Context := if h.firstOfFrame then openFrame c h else c

/-- A ROI's frame is in the ROI's mode. -/
theorem frameFor_mode {h : RoiHeader}
    (hjoins : h.firstOfFrame = true ∨ (c.frameOpen = true ∧ frameMatch c.fd h = true)) :
    (frameFor c h).fd.mode = h.mode := by
  unfold frameFor
  split
  next => rfl
  next hfirst =>
    obtain ⟨-, hmatch⟩ := hjoins.resolve_left hfirst
    obtain ⟨hmode, -⟩ := frameMatch_iff.mp hmatch
    exact hmode.symm

theorem frameStep_of_joins {e : RoiView}
    (hjoins : e.header.firstOfFrame = true ∨ (c.frameOpen = true ∧ frameMatch c.fd e.header = true)) :
    frameStep p ctrl thr c e = assembleStep p ctrl thr (frameFor c e.header) e := by
  unfold frameStep frameFor
  cases hfirst : e.header.firstOfFrame
  · obtain ⟨hopen, hmatch⟩ := hjoins.resolve_left (by simp [hfirst])
    simp [hopen, hmatch]
  · rfl

/-- With no frame open a ROI that is not the first is skipped. -/
theorem frameStep_of_closed {e : RoiView} (hfirst : e.header.firstOfFrame = false) (hclosed : c.frameOpen = false) :
    frameStep p ctrl thr c e =
      ⟨.skip, if e.header.frameCompleted then .completeWithoutFirst else .noFirstRoi, c⟩ := by
  simp [frameStep, hfirst, hclosed]

theorem frameStep_of_mismatch {e : RoiView} (hfirst : e.header.firstOfFrame = false) (hopen : c.frameOpen = true)
    (hmatch : frameMatch c.fd e.header = false) : frameStep p ctrl thr c e = fatalOutcome c .frameMismatch := by
  simp [frameStep, hfirst, hopen, hmatch]

/-- A grid frame takes every ROI. -/
theorem assembleStep_grid {e : RoiView} (hm : c.fd.mode = .grid) :
    assembleStep p ctrl thr c e = completeStep p ctrl thr (gridAccumulate c e) e.header := by
  rw [assembleStep, hm]

/-- A stripe frame with no room for a ROI is aborted. -/
theorem assembleStep_overflow {e : RoiView} (hm : c.fd.mode = .stripe) (hacc : stripeAccumulate p ctrl c e = none) :
    assembleStep p ctrl thr c e = fatalOutcome c .stripeOverflow := by
  simp only [assembleStep, hm, hacc]

/-- A stripe frame with room takes the ROI as its next row. -/
theorem assembleStep_stripe {e : RoiView} {after : Context} (hm : c.fd.mode = .stripe)
    (hacc : stripeAccumulate p ctrl c e = some after) :
    assembleStep p ctrl thr c e = completeStep p ctrl thr after e.header := by
  simp only [assembleStep, hm, hacc]

end

/-- Of the ROIs that were assembled, the last one of a frame is answered EMIT with the frame pipeline run, any other one
OK (40_commands.md R158 steps 7 and 8). -/
theorem exec_roi_of_completeStep {f : CmdFields} {record : List Word} {s : State} {v : Nat} {c after : Context}
    {roi : RoiRecord} {h : RoiHeader} (hlegal : roiFieldsLegal f = true)
    (hval : validate s.params s.ctxs.length record = .valid v roi) (hc : s.ctxs[v]? = some c)
    (hsequence : sequenceRoi s.params s.ctrl s.snrThreshold c roi =
      completeStep s.params s.ctrl s.snrThreshold after h) :
    exec (.roi f record) s =
      if h.frameCompleted then afterRoi s v (framePipeline s.params s.ctrl s.snrThreshold after) .emit .none
      else afterRoi s v after .ok .none := by
  rw [exec_roi_of_valid hlegal hval hc hsequence, completeStep]
  split <;> rfl

end Sys2Proof.Machine
end

section
/-! PROOF of O21. -/

namespace Sys2Proof.Machine

/-- Settles O21: without a virtual sensor only the response changes, with one `Context.fatal` is its effect. -/
theorem malformedRoiAnswersFatal : Obligations.MalformedRoiAnswersFatal := by
  intro f record s reason hlegal
  exact ⟨exec_roi_of_unattributed hlegal, fun v c hval hc => exec_roi_of_malformed hlegal hval hc⟩

end Sys2Proof.Machine
end

section
/-! PROOF of O26 to O28. A ROI with HDR not active is assembled into the frame it opens or matches, or not at all
(40_commands.md R158 steps 5 to 8). -/

namespace Sys2Proof.Machine

/-- Settles O26: `base` is `frameFor`, a frame in grid mode. -/
theorem gridRoiIsAssembled : Obligations.GridRoiIsAssembled := by
  intro f record s v roi c h hlegal hval hc hmode hjoin base after
  have hjoins : h.firstOfFrame = true ∨ (c.frameOpen = true ∧ frameMatch c.fd h = true) := by
    refine hjoin.imp_right fun ⟨hopen, hfd, hbin, hrow0, hnrows, hcol0, hncols, hn0, hn1, hf0, hf1⟩ => ⟨hopen, ?_⟩
    exact frameMatch_iff.mpr ⟨hmode.trans hfd.symm, hbin, hrow0, hnrows, hcol0, hncols, hn0, hn1, hf0, hf1,
      fun hstripe => by simp [hmode] at hstripe⟩
  have hbase : base.fd.mode = .grid := (frameFor_mode hjoins).trans hmode
  have hsequence : sequenceRoi s.params s.ctrl s.snrThreshold c roi =
      completeStep s.params s.ctrl s.snrThreshold after h := by
    rw [sequenceRoi_of_inactive (hdrActive_eq_false_iff.mpr (.inr (.inr hmode)))]
    exact (frameStep_of_joins hjoins).trans (assembleStep_grid hbase)
  exact exec_roi_of_completeStep hlegal hval hc hsequence

/-- Settles O27: `base` is `frameFor`, a frame in stripe mode. -/
theorem stripeRoiIsAssembled : Obligations.StripeRoiIsAssembled := by
  intro f record s v roi c h hlegal hval hc hmode hinactive hjoin base
  have hjoins : h.firstOfFrame = true ∨ (c.frameOpen = true ∧ frameMatch c.fd h = true) := by
    refine hjoin.imp_right fun ⟨hopen, hfd, hbin, hrow0, hnrows, hcol0, hncols, hn0, hn1, hf0, hf1, hrows⟩ =>
      ⟨hopen, ?_⟩
    exact frameMatch_iff.mpr ⟨hmode.trans hfd.symm, hbin, hrow0, hnrows, hcol0, hncols, hn0, hn1, hf0, hf1,
      fun _ => hrows⟩
  have hbase : base.fd.mode = .stripe := (frameFor_mode hjoins).trans hmode
  have hsequence : sequenceRoi s.params s.ctrl s.snrThreshold c roi =
      assembleStep s.params s.ctrl s.snrThreshold base (derotate roi) := by
    rw [sequenceRoi_of_inactive (hdrActive_eq_false_iff.mpr (hinactive.imp_right .inl))]
    exact frameStep_of_joins hjoins
  rcases stripeAccumulate_cases s.params s.ctrl base (derotate roi) with ⟨hfull, hacc⟩ | ⟨hroom, _, _, _, hacc⟩
  · refine ⟨fun _ => ?_, fun hroom => absurd hroom (not_lt.mpr hfull)⟩
    exact exec_roi_of_valid hlegal hval hc (hsequence.trans (assembleStep_overflow hbase hacc))
  · refine ⟨fun hfull => absurd hroom (not_lt.mpr hfull), fun _ => ⟨_, hacc, ?_⟩⟩
    exact exec_roi_of_completeStep hlegal hval hc (hsequence.trans (assembleStep_stripe hbase hacc))

/-- Settles O28: without `firstOfFrame`, the three other branches of step 5 are decided by `frameOpen` and R221. -/
theorem unmatchedRoiIsNotAssembled : Obligations.UnmatchedRoiIsNotAssembled := by
  intro f record s v roi c h hlegal hval hc hinactive hfirst
  have hsequence : sequenceRoi s.params s.ctrl s.snrThreshold c roi =
      frameStep s.params s.ctrl s.snrThreshold c (derotate roi) :=
    sequenceRoi_of_inactive (hdrActive_eq_false_iff.mpr hinactive)
  refine ⟨fun hclosed hlast => ?_, fun hclosed hlast => ?_, fun hopen hdiffers => ?_⟩
  · rw [exec_roi_of_valid hlegal hval hc (hsequence.trans (frameStep_of_closed hfirst hclosed))]
    simp only [derotate_header, show roi.header.frameCompleted = true from hlast, if_true]
  · rw [exec_roi_of_valid hlegal hval hc (hsequence.trans (frameStep_of_closed hfirst hclosed))]
    simp only [derotate_header, show roi.header.frameCompleted = false from hlast, Bool.false_eq_true, if_false]
  · have hmatch : frameMatch c.fd h = false := Bool.eq_false_iff.mpr (mt frameMatch_iff.mp hdiffers)
    exact exec_roi_of_valid hlegal hval hc (hsequence.trans (frameStep_of_mismatch hfirst hopen hmatch))

end Sys2Proof.Machine
end

section
/-! PROOF of O44. What completing a frame leaves besides the output maps (40_commands.md R160, R161). -/

namespace Sys2Proof.Machine

/-- Settles O44: the descriptor is read off the frame's mode, whose size `finalRaw_size` gives. -/
theorem framePipelineEmits : Obligations.FramePipelineEmits := by
  intro p ctrl thr ctx after h w
  obtain ⟨hw, hh⟩ := finalRaw_size ctx
  refine ⟨rfl, fun hm => ?grid, fun hm => ?stripe⟩
  all_goals
    rw [hm] at hh
    refine ⟨hh, hw, ?_⟩
    rw [framePipeline_desc, descriptorOf, hm]

end Sys2Proof.Machine
end

section
/-! PROOF LAYER for 40_commands.md R160. The stages of the frame pipeline, whole maps at a time: each takes the maps it
reads as functions of the pixel, and gives the map it makes as one. -/

namespace Sys2Proof

/-- The map holds `f` at every pixel of a frame of `h` rows and `w` columns; `d` is what it reads as outside. -/
def Grid.Holds {α : Type} (d : α) (h w : Nat) (g : Grid α) (f : Nat → Nat → α) : Prop :=
  ∀ i j, i < h → j < w → Grid.read d g i j = f i j

theorem Grid.holds_build {α : Type} (d : α) {h w : Nat} {f f' : Nat → Nat → α}
    (hf : ∀ i j, i < h → j < w → f i j = f' i j) : Grid.Holds d h w (Grid.build h w f) f' :=
  fun i j hi hj => (Grid.read_build d f hi hj).trans (hf i j hi hj)

namespace Machine

section
variable {h w : Nat}

/-- The taps of a smoothed pixel (44_smoother.md R280, R281). -/
def smoothedTaps (kernel : List NUM) (x : Grid Taps) (h w i j : Nat) : Taps :=
  Taps.build fun t =>
    if h < kernel.length ∨ w < kernel.length then (x.taps i j).tap t
    else firSum kernel h i fun i' => firSum kernel w j fun j' => (x.taps i' j').tap t

theorem smooth_taps (kernel : List NUM) (x : Grid Taps) {i j : Nat} (hi : i < h) (hj : j < w) :
    (smooth kernel x h w).taps i j = smoothedTaps kernel x h w i j := by
  refine Taps.ext_tap fun t ht => ?_
  rw [smooth_tap kernel x hi hj ht, smoothedTaps, Taps.tap_build _ ht]

/-- The phases of the smoothed frame (44_smoother.md R282). -/
theorem phaseMap_smooth_holds (kernel : List NUM) (x : Grid Taps) :
    Grid.Holds NUM.zero h w (phaseMap (smooth kernel x h w) h w) fun i j => phaseOf (smoothedTaps kernel x h w i j) :=
  Grid.holds_build _ fun _ _ hi hj => congrArg phaseOf (smooth_taps kernel x hi hj)

/-- The corrected phases (44_smoother.md R283). -/
theorem correctedMap_holds {sp : Grid NUM} {g : Nat → Nat → NUM} (x : Grid Taps) (hsp : Grid.Holds NUM.zero h w sp g) :
    Grid.Holds NUM.zero h w (correctedMap (phaseMap x h w) sp h w) fun i j =>
      correctPhase (phaseOf (x.taps i j)) (g i j) :=
  Grid.holds_build _ fun i j hi hj => congrArg₂ correctPhase (phaseMap_num x hi hj) (hsp i j hi hj)

section
variable {sp0 sp1 : Grid NUM} {g0 g1 : Nat → Nat → NUM} (fd : FrameDesc)
  (h0 : Grid.Holds NUM.zero h w sp0 g0) (h1 : Grid.Holds NUM.zero h w sp1 g1)
include h0 h1

/-- The cycle indices (45_unwrapper.md R303). -/
theorem cycleMap_holds : Grid.Holds 0 h w (cycleMap fd sp0 sp1 h w) fun i j => cycleIndex fd (g0 i j) (g1 i j) :=
  Grid.holds_build _ fun i j hi hj => congrArg₂ (cycleIndex fd) (h0 i j hi hj) (h1 i j hi hj)

/-- The ranges (45_unwrapper.md R304). -/
theorem rangeMap_holds {cyc : Grid Nat} {cp0 cp1 : Grid NUM} {n : Nat → Nat → Nat} {k0 k1 : Nat → Nat → NUM}
    (hn : Grid.Holds 0 h w cyc n) (hk0 : Grid.Holds NUM.zero h w cp0 k0) (hk1 : Grid.Holds NUM.zero h w cp1 k1) :
    Grid.Holds NUM.zero h w (rangeMap fd cyc sp0 sp1 cp0 cp1 h w) fun i j =>
      rangeOf fd (n i j) (signMask (g0 i j) (g1 i j)) (k0 i j) (k1 i j) :=
  Grid.holds_build _ fun i j hi hj => by
    simp only [Grid.num, h0 i j hi hj, h1 i j hi hj, hn i j hi hj, hk0 i j hi hj, hk1 i j hi hj]

end

/-- NN_LEVEL as a number. -/
theorem ctrlNnLevel_toNat (ctrl : BitVec 32) : (ctrlNnLevel ctrl).toNat = ctrl.toNat / 8 % 8 := by
  rw [ctrlNnLevel, BitVec.extractLsb'_toNat, Nat.shiftRight_eq_div_pow]

/-- The median stage of the ranges `g`, at a pixel: PERFORM_MEDIAN and the frame's mode choose (40_commands.md R160,
46_artifact_filters.md R326 to R328). -/
def medianStage (p : Params) (ctrl : BitVec 32) (fd : FrameDesc) (g : Nat → Nat → NUM) (h w i j : Nat) : NUM :=
  let stripeHalf := (byBinning p.medWStripe fd.bin.toNat - 1) / 2
  let gridHalf := (byBinning p.medWGrid fd.bin.toNat - 1) / 2
  if ctrl.getLsbD 6 = false then g i j
  else if fd.mode = .stripe then
    if stripeHalf ≤ j ∧ j + stripeHalf < w then
      NUM.median ((List.range (2 * stripeHalf + 1)).map fun k => g i (j + k - stripeHalf))
    else g i j
  else if gridHalf ≤ i ∧ i + gridHalf < h ∧ gridHalf ≤ j ∧ j + gridHalf < w then
    NUM.median
      (((List.range (2 * gridHalf + 1)).map fun k => g i (j + k - gridHalf)) ++
        ((List.range (2 * gridHalf + 1)).filter fun k => k ≠ gridHalf).map fun k => g (i + k - gridHalf) j)
  else g i j

/-- The close neighbours of a pixel of the map `g` (46_artifact_filters.md R330, R331), for a window of size `n`. -/
def closeNeighbours (p : Params) (g : Nat → Nat → NUM) (n h w r c : Nat) : Finset (Nat × Nat) :=
  (Finset.range h ×ˢ Finset.range w).filter fun q =>
    (q ≠ (r, c) ∧ r ≤ q.1 + n / 2 ∧ q.1 + n / 2 < r + n ∧ c ≤ q.2 + n / 2 ∧ q.2 + n / 2 < c + n) ∧
    (((g q.1 q.2).sub (g r c)).abs).le (p.nnAbsTol.add (p.nnPropTol.mul (g r c))) = true

section
variable {rng : Grid NUM} {g : Nat → Nat → NUM} (hg : Grid.Holds NUM.zero h w rng g)
include hg

/-- Stripe-mode median (46_artifact_filters.md R326): the footprint lies in the row. -/
theorem medianStripePixel_of_holds (n : Nat) {r c : Nat} (hr : r < h) (hc : c < w) :
    medianStripePixel n rng w r c =
      if (n - 1) / 2 ≤ c ∧ c + (n - 1) / 2 < w then
        NUM.median ((List.range (2 * ((n - 1) / 2) + 1)).map fun k => g r (c + k - (n - 1) / 2))
      else g r c := by
  unfold medianStripePixel
  dsimp only
  split
  next hin =>
    refine congrArg NUM.median (List.map_congr_left fun k hk => hg _ _ hr ?_)
    have hk' := List.mem_range.mp hk
    omega
  next => exact hg r c hr hc

/-- Grid-mode median (46_artifact_filters.md R327): the plus footprint lies in the frame. -/
theorem medianGridPixel_of_holds (n : Nat) {r c : Nat} (hr : r < h) (hc : c < w) :
    medianGridPixel n rng h w r c =
      if (n - 1) / 2 ≤ r ∧ r + (n - 1) / 2 < h ∧ (n - 1) / 2 ≤ c ∧ c + (n - 1) / 2 < w then
        NUM.median (((List.range (2 * ((n - 1) / 2) + 1)).map fun k => g r (c + k - (n - 1) / 2)) ++
          ((List.range (2 * ((n - 1) / 2) + 1)).filter fun k => k ≠ (n - 1) / 2).map fun k =>
            g (r + k - (n - 1) / 2) c)
      else g r c := by
  unfold medianGridPixel
  dsimp only
  split
  next hin =>
    refine congrArg NUM.median (congrArg₂ _ (List.map_congr_left fun k hk => hg _ _ hr ?_)
      (List.map_congr_left fun k hk => hg _ _ ?_ hc))
    · have hk' := List.mem_range.mp hk
      omega
    · have hk' := List.mem_range.mp (List.mem_of_mem_filter hk)
      omega
  next => exact hg r c hr hc

/-- The median stage (40_commands.md R160) at a pixel inside the frame. -/
theorem medianStage_holds (p : Params) (ctrl : BitVec 32) (fd : FrameDesc) :
    Grid.Holds NUM.zero h w (if ctrlPerformMedian ctrl then medianFilter p fd rng h w else rng)
      (medianStage p ctrl fd g h w) := by
  intro i j hi hj
  unfold medianStage
  cases hbit : ctrl.getLsbD 6 <;>
    simp only [ctrlPerformMedian, hbit, if_true, Bool.false_eq_true, if_false, reduceCtorEq]
  · exact hg i j hi hj
  · refine (medianFilter_num p fd rng hi hj).trans ?_
    cases fd.mode
    · exact medianGridPixel_of_holds hg _ hi hj
    · exact medianStripePixel_of_holds hg _ hi hj

/-- The close neighbours of a pixel (46_artifact_filters.md R330 to R332), counted over the frame. -/
theorem closeCount_of_holds (p : Params) (n : Nat) {r c : Nat} (hr : r < h) (hc : c < w) :
    closeCount p n rng h w r c = (closeNeighbours p g n h w r c).card := by
  rw [closeCount, List.filter_filter, length_filter_windowPixels]
  refine congrArg Finset.card (Finset.filter_congr fun q hq => ?_)
  rw [Finset.mem_product, Finset.mem_range, Finset.mem_range] at hq
  have hq' : rng.num q.1 q.2 = g q.1 q.2 := hg _ _ hq.1 hq.2
  have hrc : rng.num r c = g r c := hg _ _ hr hc
  simp only [hq', hrc, isClose, Bool.and_eq_true, decide_eq_true_eq]
  tauto

/-- The range map after both filters (40_commands.md R160). -/
theorem filteredRange_num (p : Params) (ctrl : BitVec 32) (fd : FrameDesc) {r c : Nat} (hr : r < h) (hc : c < w) :
    (filteredRange p ctrl fd rng h w).num r c =
      let level := ctrl.toNat / 8 % 8
      let m := medianStage p ctrl fd g h w
      if level ≠ 0 ∧ (closeNeighbours p m (nnRow p level).1 h w r c).card < (nnRow p level).2 then NUM.zero
      else m r c := by
  have hm := medianStage_holds hg p ctrl fd
  rw [filteredRange, nnFilter_num _ _ _ hr hc, closeCount_of_holds hm _ _ hr hc, ctrlNnLevel_toNat]
  exact if_congr Iff.rfl rfl (hm r c hr hc)

end

/-- The cycle index is a remainder modulo N0 (45_unwrapper.md R303). -/
theorem cycleIndex_lt {fd : FrameDesc} (hn0 : 1 ≤ fd.n0.toNat) (sp0 sp1 : NUM) : cycleIndex fd sp0 sp1 < 2 ^ 53 := by
  have hn : fd.n0.toNat < 2 ^ 16 := fd.n0.isLt
  have hlt := Int.emod_lt_of_pos (rawCycle fd sp0 sp1 + fd.n0.toNat * signMask sp0 sp1)
    (show (0 : Int) < fd.n0.toNat by omega)
  unfold cycleIndex
  omega

/-- The ghost mask (46_artifact_filters.md R320 to R323), of a map of small integers. -/
theorem ghostMask_iff {cyc : Grid Nat} {g : Nat → Nat → Nat} {r c : Nat} (n : Nat) (tol : NUM)
    (hcyc : Grid.Holds 0 h w cyc g) (hsmall : ∀ i j, g i j < 2 ^ 53) (hr : r < h) (hc : c < w) :
    Grid.read false (ghostMask n tol cyc h w) r c = true ↔
      SpreadIn h w tol g (fun i j => r ≤ i + n / 2 ∧ i + n / 2 < r + n ∧ c ≤ j + n / 2 ∧ j + n / 2 < c + n) ∧
      SpreadIn h w tol g (fun i j => i ≤ r + n / 2 ∧ r + n / 2 < i + n ∧ j ≤ c + n / 2 ∧ c + n / 2 < j + n) := by
  have hq : Grid.Holds NUM.zero h w (Grid.build h w fun i j => NUM.ofNat (Grid.read 0 cyc i j)) fun i j =>
      NUM.ofNat (g i j) := Grid.holds_build _ fun i j hi hj => congrArg NUM.ofNat (hcyc i j hi hj)
  rw [ghostMask, Grid.read_build _ _ hr hc, Bool.and_eq_true, ghostScan_iff n tol _ g hr hc hq hsmall,
    ghostReverse_iff n tol _ g hr hc hq hsmall]

/-- With PERFORM_MINMAX the ghost mask is used (46_artifact_filters.md R324). -/
theorem ghostOf_of_minmax {p : Params} {ctrl : BitVec 32} {fd : FrameDesc} {cyc : Grid Nat}
    (hbit : ctrl.getLsbD 7 = true) :
    ghostOf p ctrl fd cyc h w = ghostMask (byBinning p.ghostW fd.bin.toNat) p.ghostTol cyc h w :=
  if_pos hbit

end

/-- The frame the assembler hands over in grid mode (42_frame_assembler.md R226, R227). -/
theorem finalRaw_grid_entries {ctx : Context} (hm : ctx.fd.mode = .grid) {r c : Nat} (hr : r < (finalRaw ctx).h)
    (hc : c < (finalRaw ctx).w) :
    (finalRaw ctx).x0.taps r c = (gridBin ctx.fd (rowFill ctx ctx.raw0)).taps r c ∧
      (finalRaw ctx).x1.taps r c = (gridBin ctx.fd (rowFill ctx ctx.raw1)).taps r c ∧
      (finalRaw ctx).nc.num r c = NUM.ofNat (ctx.fd.bin.toNat * ctx.fd.bin.toNat) := by
  have hfr : finalRaw ctx = finalGrid ctx := by simp only [finalRaw, hm]
  rw [hfr] at hr hc ⊢
  exact ⟨rfl, rfl, Grid.num_build _ hr hc⟩

/-- The frame the assembler hands over in stripe mode (42_frame_assembler.md R234). -/
theorem finalRaw_stripe_entries {ctx : Context} (hm : ctx.fd.mode = .stripe) {r c : Nat} (hr : r < (finalRaw ctx).h)
    (hc : c < (finalRaw ctx).w) :
    (finalRaw ctx).x0.taps r c = Memory.read Taps.zero ctx.srow0 (pixKey r c) ∧
      (finalRaw ctx).x1.taps r c = Memory.read Taps.zero ctx.srow1 (pixKey r c) ∧
      (finalRaw ctx).nc.num r c = Memory.read NUM.zero ctx.snorm (pixKey r c) := by
  have hfr : finalRaw ctx = finalStripe ctx := by simp only [finalRaw, hm]
  rw [hfr] at hr hc ⊢
  exact ⟨Grid.taps_build _ hr hc, Grid.taps_build _ hr hc, Grid.num_build _ hr hc⟩

/-- Whether a pixel is invalid (47_quantizer.md R352). -/
theorem pixelInvalid_iff {ctrl : BitVec 32} {thr limit r2 snr : NUM} {maskBit ghost : Bool} :
    pixelInvalid ctrl thr limit r2 snr maskBit ghost = true ↔
      ctrl.getLsbD 8 = false ∧ (maskBit = false ∨ snr.lt (thr.mul NUM.two) = true ∨
        (ctrl.getLsbD 9 = false ∧ limit.lt r2 = true) ∨ (ctrl.getLsbD 7 = true ∧ ghost = true)) := by
  simp [pixelInvalid, ctrlDisableRangeMasking, ctrlDisableRangeLimit, ctrlPerformMinmax, or_assoc]

theorem rhazNat_zero (e : Int) : rhazNat 0 e = 0 := by
  unfold rhazNat
  split
  · exact Nat.zero_mul _
  · have hpos := Nat.two_pow_pos (-e).toNat
    exact Nat.div_eq_of_lt (by omega)

/-- An invalid pixel's range word is 0 (47_quantizer.md R352, R353). -/
theorem quantizeRange_zero : quantizeRange NUM.zero = 0 := by
  have hscaled : NUM.zero.mul NUM.n1024 = NUM.zero := by decide
  have hunpack : NUM.zero.unpack = .fin false 0 (-1074) := by decide
  simp only [quantizeRange, hscaled, NUM.rhaz, hunpack, rhazNat_zero]
  decide

/-- A frame is narrower than the index of a pixel allows. -/
theorem finalRaw_width (ctx : Context) : (finalRaw ctx).w ≤ 2 ^ 32 := by
  have hcols : ctx.fd.winNcols.toNat < 2 ^ 16 := ctx.fd.winNcols.isLt
  rw [(finalRaw_size ctx).1, FrameDesc.outCols]
  exact (Nat.div_le_self _ _).trans (by omega)

end Machine
end Sys2Proof
end

section
/-! PROOF of O45. -/

namespace Sys2Proof.Machine

/-- Settles O45: stage by stage, the model's map holds the statement's function at every pixel of the frame. N0 is at
least 1 so that the cycle indices are small enough to be compared as integers. -/
theorem emittedWordsFollowDemodulator : Obligations.EmittedWordsFollowDemodulator := by
  intro p ctrl thr ctx r c fr fd h w b after half one two signal phase demod acc kernel reach fir smoothed sp cp n0 mask
    cycle halfC range wg spread ghost stripeHalf gridHalf filtered level wn need close rn d r1 r2 invalid hr hc
  have hfir : firSum kernel = fir := funext fun n => funext fun x => funext (firSum_eq_filter kernel n x)
  have hsp (x : Grid Taps) : Grid.Holds NUM.zero h w (phaseMap (smooth kernel x h w) h w) (sp x) := by
    have hs := phaseMap_smooth_holds (h := h) (w := w) kernel x
    simp only [smoothedTaps, hfir] at hs
    exact hs
  have hcycle : Grid.Holds 0 h w (cycleMap fd _ _ h w) cycle := cycleMap_holds fd (hsp fr.x0) (hsp fr.x1)
  have hrange : Grid.Holds NUM.zero h w (rangeMap fd _ _ _ _ _ h w) range :=
    rangeMap_holds fd (hsp fr.x0) (hsp fr.x1) hcycle (correctedMap_holds fr.x0 (hsp fr.x0))
      (correctedMap_holds fr.x1 (hsp fr.x1))
  have hrn : (pipelineMaps p ctrl fd fr).rn.num r c = rn := filteredRange_num hrange p ctrl fd hr hc
  have hacc : Grid.read Accum.zero (pipelineMaps p ctrl fd fr).acc r c = acc := demodBoth_read fr hr hc
  have hsmall (hn0 : 1 ≤ n0) (i j : Nat) : cycle i j < 2 ^ 53 := cycleIndex_lt hn0 _ _
  have hghost (hn0 : 1 ≤ n0) (hbit : ctrl.getLsbD 7 = true) :
      Grid.read false (pipelineMaps p ctrl fd fr).ghost r c = true ↔ ghost := by
    have hmask : (pipelineMaps p ctrl fd fr).ghost = ghostMask wg p.ghostTol _ h w := ghostOf_of_minmax hbit
    rw [hmask]
    exact ghostMask_iff wg p.ghostTol hcycle (hsmall hn0) hr hc
  have hinvalid (hn0 : 1 ≤ n0) :
      pixelInvalid ctrl thr ctx.rangeLimit r2 acc.snr (ctx.maskBit r c)
        (Grid.read false (pipelineMaps p ctrl fd fr).ghost r c) = true ↔ invalid :=
    pixelInvalid_iff.trans (and_congr_right fun _ => or_congr_right (or_congr_right (or_congr_right
      (and_congr_right (hghost hn0)))))
  obtain ⟨hrangeWord, hsignal, hbackground, hsnr⟩ := framePipeline_words p ctrl thr ctx (finalRaw_width ctx) hr hc
  rw [hacc] at hsignal hbackground hsnr
  rw [hrn, hacc] at hrangeWord
  refine ⟨fun hm => ?grid, fun hm => ?stripe, fun hn0 hinv => ?invalid, fun hn0 hval => ?valid, hsignal, hbackground,
    hsnr⟩
  case grid => exact finalRaw_grid_entries hm hr hc
  case stripe => exact finalRaw_stripe_entries hm hr hc
  case invalid => exact hrangeWord.trans ((if_pos ((hinvalid hn0).mpr hinv)).trans quantizeRange_zero)
  case valid => exact hrangeWord.trans (if_neg (mt (hinvalid hn0).mp hval))

end Sys2Proof.Machine
end

section
/-! PROOF LAYER for 41_roi_conditioner.md. What the conditioner answers by the branch of R200 it takes, and where a
payload has the samples of a pixel (30_encoding.md R121). -/

namespace Sys2Proof.Machine

/-! ### The branches of the conditioner -/

section
variable {p : Params} {ctrl : BitVec 32} {sat thr : NUM} {c : Context} {roi held : RoiRecord}

theorem condition_of_store (hact : hdrActive ctrl roi.header = true)
    (hfree : c.hdrPrev = none ∨ c.hdrCorrected = true) :
    condition p ctrl c roi = .stored { c with hdrPrev := some roi, hdrCorrected := false } := by
  simp only [condition, hact, Bool.not_true, Bool.false_eq_true, if_false]
  cases hp : c.hdrPrev with
  | none => rfl
  | some held =>
    have hcorrected : c.hdrCorrected = true := hfree.resolve_left (by simp [hp])
    simp only [hcorrected, if_true, storeRoi]

theorem condition_of_swap (hact : hdrActive ctrl roi.header = true) (hheld : c.hdrPrev = some held)
    (hcorrected : c.hdrCorrected = false) (hplain : roi.header.prevSaturated = false) :
    condition p ctrl c roi = .emitted { c with hdrPrev := some roi } held := by
  simp [condition, hact, hheld, hcorrected, hplain, swapRoi]

theorem condition_of_retake (hact : hdrActive ctrl roi.header = true) (hheld : c.hdrPrev = some held)
    (hcorrected : c.hdrCorrected = false) (hretake : roi.header.prevSaturated = true) :
    condition p ctrl c roi = mergeRetake p.satThresh c held roi := by
  simp [condition, hact, hheld, hcorrected, hretake]

theorem mergeRetake_of_sameShape (h : sameShape held roi = true) :
    mergeRetake sat c held roi =
      .emitted { c with hdrCorrected := true } ⟨headerOfMerge held.header roi.header, mergePayload sat held roi⟩ :=
  if_pos h

theorem mergeRetake_of_otherShape (h : sameShape held roi = false) : mergeRetake sat c held roi = .badShape c := by
  simp [mergeRetake, h]

/-! ### What each answer is sequenced to (40_commands.md R158) -/

theorem sequenceRoi_of_stored {c₁ : Context} (h : condition p ctrl c roi = .stored c₁) :
    sequenceRoi p ctrl thr c roi = ⟨.skip, .hdrStored, c₁⟩ := by
  rw [sequenceRoi, h]

theorem sequenceRoi_of_badShape {c₁ : Context} (h : condition p ctrl c roi = .badShape c₁) :
    sequenceRoi p ctrl thr c roi = fatalOutcome c₁ .hdrShape := by
  rw [sequenceRoi, h]

theorem sequenceRoi_of_emitted {c₁ : Context} {out : RoiRecord} (h : condition p ctrl c roi = .emitted c₁ out) :
    sequenceRoi p ctrl thr c roi = frameStep p ctrl thr c₁ (derotate out) := by
  rw [sequenceRoi, h]

end

/-! ### Samples of a pixel -/

/-- Place `b` of row `a`, counted row by row, is before the end of a map of `m` rows of `n` places. -/
theorem mul_add_lt_mul {a b m n : Nat} (ha : a < m) (hb : b < n) : a * n + b < m * n :=
  calc a * n + b < a * n + n := Nat.add_lt_add_left hb _
    _ = (a + 1) * n := (Nat.succ_mul a n).symm
    _ ≤ m * n := Nat.mul_le_mul_right n ha

section
variable {h : RoiHeader} {f j i c t : Nat}

theorem sampleIndex_lt (hf : f < 2) (hj : j < h.rotations) (hi : i < h.rows) (hc : c < h.cols) (ht : t < 3) :
    sampleIndex h f j i c t < 2 * h.rotations * h.rows * h.cols * 3 :=
  mul_add_lt_mul (mul_add_lt_mul (mul_add_lt_mul (mul_add_lt_mul hf hj) hi) hc) ht

/-- The pixel a sample belongs to, from its place alone. -/
theorem sampleIndex_pixel (f j : Nat) (hi : i < h.rows) (hc : c < h.cols) (ht : t < 3) :
    sampleIndex h f j i c t / 3 % (h.rows * h.cols) = i * h.cols + c := by
  have hpixel : sampleIndex h f j i c t / 3 = i * h.cols + c + (h.rows * h.cols) * (f * h.rotations + j) := by
    have hplace : sampleIndex h f j i c t / 3 = ((f * h.rotations + j) * h.rows + i) * h.cols + c := by
      rw [sampleIndex]
      omega
    rw [hplace]
    ring
  rw [hpixel, Nat.add_mul_mod_self_left, Nat.mod_eq_of_lt (mul_add_lt_mul hi hc)]

/-- A merge keeps the held ROI's shape, so its samples are where the held ROI's are. -/
theorem sampleIndex_headerOfMerge (h h' : RoiHeader) (f j i c t : Nat) :
    sampleIndex (headerOfMerge h h') f j i c t = sampleIndex h f j i c t := rfl

/-- Headers that agree in NROT, N_ROWS and WIN_NCOLS put their samples at the same places. -/
theorem sampleIndex_congr {h' : RoiHeader} (hnrot : h'.nrot = h.nrot) (hrows : h'.nRows = h.nRows)
    (hcols : h'.winNcols = h.winNcols) : sampleIndex h' f j i c t = sampleIndex h f j i c t := by
  simp only [sampleIndex, RoiHeader.rotations, RoiHeader.rows, RoiHeader.cols, hnrot, hrows, hcols]

end

end Sys2Proof.Machine
end

section
/-! PROOF of O24 and O25. A ROI with HDR active is stored, or sends on what was held (41_roi_conditioner.md R202 to
R204). -/

namespace Sys2Proof.Machine

/-- Settles O24: with the delay line free the conditioner stores the ROI, which is sequenced to a skip. -/
theorem hdrRoiIsStored : Obligations.HdrRoiIsStored := by
  intro f record s v roi c hlegal hval hc henabled hdisabled hmode hfree
  have hact : hdrActive s.ctrl roi.header = true := hdrActive_iff.mpr ⟨henabled, hdisabled, hmode⟩
  exact exec_roi_of_valid hlegal hval hc (sequenceRoi_of_stored (condition_of_store hact hfree))

/-- Settles O25: the swap, the merge and the FATAL are the conditioner's answers with a ROI held. -/
theorem heldRoiIsReleased : Obligations.HeldRoiIsReleased := by
  intro f record s v roi held c hlegal hval hc henabled hdisabled hmode hheld hcorrected shape
  have hact : hdrActive s.ctrl roi.header = true := hdrActive_iff.mpr ⟨henabled, hdisabled, hmode⟩
  refine ⟨fun hplain => ?swap, fun hretake hshape => ?merge, fun hretake hshape => ?mismatch⟩
  case swap =>
    have hcond := condition_of_swap (p := s.params) hact hheld hcorrected hplain
    exact exec_roi_of_valid hlegal hval hc (sequenceRoi_of_emitted hcond)
  case merge =>
    have hcond := (condition_of_retake hact hheld hcorrected hretake).trans
      (mergeRetake_of_sameShape (sat := s.params.satThresh) (sameShape_iff.mpr hshape))
    exact exec_roi_of_valid hlegal hval hc (sequenceRoi_of_emitted hcond)
  case mismatch =>
    have hother : sameShape held roi = false := Bool.eq_false_iff.mpr (mt sameShape_iff.mp hshape)
    have hcond := (condition_of_retake hact hheld hcorrected hretake).trans
      (mergeRetake_of_otherShape (sat := s.params.satThresh) hother)
    exact exec_roi_of_valid hlegal hval hc (sequenceRoi_of_badShape hcond)

end Sys2Proof.Machine
end

section
/-! PROOF of O29. The merge of a held ROI and its retake (41_roi_conditioner.md R204, R205). -/

namespace Sys2Proof.Machine

/-- A fold is at most `b` when its start is and every element is, where `P` says that of an element. -/
theorem foldl_le_iff {α : Type} {step : Nat → α → Nat} {P : α → Prop} {b : Nat}
    (hstep : ∀ acc x, step acc x ≤ b ↔ acc ≤ b ∧ P x) (xs : List α) (acc : Nat) :
    xs.foldl step acc ≤ b ↔ acc ≤ b ∧ ∀ x ∈ xs, P x := by
  induction xs generalizing acc with
  | nil => simp
  | cons x xs ih => rw [List.foldl_cons, ih, hstep, List.forall_mem_cons, and_assoc]

/-- The peak is the least bound of the samples over frequencies, copies and taps. -/
theorem peak_le_iff {p : RoiRecord} {i c b : Nat} :
    p.peak i c ≤ b ↔ ∀ f < 2, ∀ j < p.header.rotations, ∀ t < 3, p.raw f j i c t ≤ b := by
  have htaps (f j acc : Nat) := foldl_le_iff (b := b) (fun acc t => max_le_iff (a := acc) (b := p.raw f j i c t))
    (List.range 3) acc
  have hcopies (f acc : Nat) := foldl_le_iff (fun acc j => htaps f j acc) (List.range p.header.rotations) acc
  have hpeak := foldl_le_iff (fun acc f => hcopies f acc) (List.range 2) 0
  simpa only [RoiRecord.peak, List.mem_range, Nat.zero_le, true_and] using hpeak

theorem raw_le_peak {p : RoiRecord} {f j t : Nat} (i c : Nat) (hf : f < 2) (hj : j < p.header.rotations) (ht : t < 3) :
    p.raw f j i c t ≤ p.peak i c :=
  peak_le_iff.mp le_rfl f hf j hj t ht

/-- Of a ROI that has a copy, the peak of a pixel is one of its samples. -/
theorem exists_raw_eq_peak {p : RoiRecord} (hrot : p.header.rotations ≠ 0) (i c : Nat) :
    ∃ f j t, f < 2 ∧ j < p.header.rotations ∧ t < 3 ∧ p.raw f j i c t = p.peak i c := by
  by_contra! hne
  have hlt (f) (hf : f < 2) (j) (hj : j < p.header.rotations) (t) (ht : t < 3) : p.raw f j i c t < p.peak i c :=
    lt_of_le_of_ne (raw_le_peak i c hf hj ht) (hne f j t hf hj ht)
  have hpos : 0 < p.peak i c := Nat.zero_lt_of_lt (hlt 0 two_pos 0 (Nat.pos_of_ne_zero hrot) 0 three_pos)
  have hle : p.peak i c ≤ p.peak i c - 1 :=
    peak_le_iff.mpr fun f hf j hj t ht => Nat.le_sub_one_of_lt (hlt f hf j hj t ht)
  omega

theorem keepsHeld_pixel {sat : NUM} {p : RoiRecord} {i c : Nat} (hi : i < p.header.rows) (hc : c < p.header.cols) :
    (keepsHeld sat p).getD (i * p.header.cols + c) true = (NUM.ofNat (p.peak i c)).lt sat := by
  have hrow : (i * p.header.cols + c) / p.header.cols = i := by
    rw [mul_comm, Nat.mul_add_div (Nat.zero_lt_of_lt hc), Nat.div_eq_of_lt hc, add_zero]
  have hcol : (i * p.header.cols + c) % p.header.cols = c := by
    rw [Nat.mul_add_mod_self_right, Nat.mod_eq_of_lt hc]
  simp [keepsHeld, List.getD, mul_add_lt_mul hi hc, hrow, hcol]

/-- Each sample of a merge comes from the held ROI or from the retake, as the peak of its pixel decides. -/
theorem raw_merge {sat : NUM} {p roi : RoiRecord} {f j i c t : Nat}
    (hlen : p.payload.length = 2 * p.header.rotations * p.header.rows * p.header.cols * 3)
    (hshape : sameShape p roi = true) (hf : f < 2) (hj : j < p.header.rotations) (hi : i < p.header.rows)
    (hc : c < p.header.cols) (ht : t < 3) :
    RoiRecord.raw ⟨headerOfMerge p.header roi.header, mergePayload sat p roi⟩ f j i c t =
      if (NUM.ofNat (p.peak i c)).lt sat then p.raw f j i c t else roi.raw f j i c t := by
  obtain ⟨hrows, hcols, hnrot, -, -⟩ := sameShape_iff.mp hshape
  have hlt : sampleIndex p.header f j i c t < p.payload.length := hlen ▸ sampleIndex_lt hf hj hi hc ht
  have hword : (mergePayload sat p roi).getD (sampleIndex p.header f j i c t) 0 =
      if (NUM.ofNat (p.peak i c)).lt sat then p.payload.getD (sampleIndex p.header f j i c t) 0
      else roi.payload.getD (sampleIndex p.header f j i c t) 0 := by
    rw [← keepsHeld_pixel hi hc, ← sampleIndex_pixel f j hi hc ht]
    simp [mergePayload, List.getD, hlt]
  simp only [RoiRecord.raw, sampleIndex_headerOfMerge, sampleIndex_congr hnrot hrows hcols, hword]
  split <;> rfl

/-- Settles O29: the shape decides between the two answers, and `raw_merge` says which ROI each sample comes from. -/
theorem retakeMergesPerPixel : Obligations.RetakeMergesPerPixel := by
  intro sat ctx p roi hlen hrot
  refine ⟨fun hdiffers => ?_, fun hshape => ?_⟩
  · exact mergeRetake_of_otherShape (Bool.eq_false_iff.mpr (mt sameShape_iff.mp hdiffers))
  · have hsame : sameShape p roi = true := sameShape_iff.mpr hshape
    exact ⟨_, mergeRetake_of_sameShape hsame, rfl, fun i c hi hc =>
      ⟨fun f j t hf hj ht => raw_le_peak i c hf hj ht, exists_raw_eq_peak hrot i c,
        fun f j t hf hj ht => raw_merge hlen hsame hf hj hi hc ht⟩⟩

end Sys2Proof.Machine
end

section
/-! PROOF of O30. The delay line over ROIs in arrival order (41_roi_conditioner.md R207). -/

namespace Sys2Proof.Machine

@[simp] theorem conditionAll_cons (p : Params) (ctrl : BitVec 32) (c : Context) (roi : RoiRecord)
    (rest : List RoiRecord) :
    conditionAll p ctrl c (roi :: rest) =
      ConditionRun.after (condition p ctrl c roi) (conditionAll p ctrl (condition p ctrl c roi).ctx rest) := rfl

/-- With a ROI held, each non-retake ROI releases the one before it and is held itself. -/
theorem conditionAll_of_held {p : Params} {ctrl : BitVec 32} {c : Context} {held : RoiRecord} {rois : List RoiRecord}
    (hrois : ∀ roi ∈ rois, hdrActive ctrl roi.header = true ∧ roi.header.prevSaturated = false)
    (hheld : c.hdrPrev = some held) (hcorrected : c.hdrCorrected = false) :
    conditionAll p ctrl c rois =
      ⟨{ c with hdrPrev := (held :: rois).getLast? }, (held :: rois).dropLast, 0, 0⟩ := by
  induction rois generalizing c held with
  | nil => simp [← hheld]
  | cons roi rest ih =>
    obtain ⟨⟨hact, hplain⟩, hrest⟩ := List.forall_mem_cons.mp hrois
    rw [conditionAll_cons, condition_of_swap hact hheld hcorrected hplain, Conditioned.ctx_emitted,
      ih (c := { c with hdrPrev := some roi }) hrest rfl hcorrected, ConditionRun.after_emitted,
      List.getLast?_cons_cons, List.dropLast_cons_cons]

/-- From an empty delay line the first of the non-retake ROIs is stored, and releases nothing. -/
theorem conditionAll_of_empty {p : Params} {ctrl : BitVec 32} {c : Context} {first : RoiRecord}
    {rest : List RoiRecord} (hempty : c.hdrPrev = none) (hfirst : hdrActive ctrl first.header = true)
    (hrest : ∀ roi ∈ rest, hdrActive ctrl roi.header = true ∧ roi.header.prevSaturated = false) :
    conditionAll p ctrl c (first :: rest) =
      ⟨{ c with hdrPrev := (first :: rest).getLast?, hdrCorrected := false }, (first :: rest).dropLast, 1, 0⟩ := by
  rw [conditionAll_cons, condition_of_store hfirst (.inl hempty), Conditioned.ctx_stored,
    conditionAll_of_held hrest rfl rfl, ConditionRun.after_stored]

theorem conditionAll_of_stored_emitted {p : Params} {ctrl : BitVec 32} {c c₁ c₂ : Context}
    {first second out : RoiRecord} (hfirst : condition p ctrl c first = .stored c₁)
    (hsecond : condition p ctrl c₁ second = .emitted c₂ out) :
    conditionAll p ctrl c [first, second] = ⟨c₂, [out], 1, 0⟩ := by
  rw [conditionAll_cons, hfirst, Conditioned.ctx_stored, conditionAll_cons, hsecond]
  rfl

/-- Settles O30: the first ROI is stored; from then on a ROI is held, which each next one releases or is merged into. -/
theorem hdrDelayLineCounts : Obligations.HdrDelayLineCounts := by
  intro p ctrl ctx hempty henabled
  refine ⟨fun rois hne hrois => ?plain, ?retake⟩
  case plain =>
    intro run
    have hactive : ∀ roi ∈ rois, hdrActive ctrl roi.header = true ∧ roi.header.prevSaturated = false :=
      fun roi hroi =>
        have ⟨hdisabled, hmode, hplain⟩ := hrois roi hroi
        ⟨hdrActive_iff.mpr ⟨henabled, hdisabled, hmode⟩, hplain⟩
    obtain ⟨first, rest, rfl⟩ := List.exists_cons_of_ne_nil hne
    obtain ⟨⟨hfirst, -⟩, hrest⟩ := List.forall_mem_cons.mp hactive
    have hrun : run = _ := conditionAll_of_empty hempty hfirst hrest
    rw [hrun]
    exact ⟨rfl, List.length_dropLast, rfl, rfl, rfl⟩
  case retake =>
    intro a retake hadisabled hamode hrdisabled hrmode hsaturated hrows hcols hnrot hstart haccum run
    have hstore := condition_of_store (p := p) (hdrActive_iff.mpr ⟨henabled, hadisabled, hamode⟩) (.inl hempty)
    have hmerge := mergeRetake_of_sameShape (sat := p.satThresh)
      (c := { ctx with hdrPrev := some a, hdrCorrected := false })
      (sameShape_iff.mpr ⟨hrows, hcols, hnrot, hstart, haccum⟩)
    have hretake := condition_of_retake (p := p) (c := { ctx with hdrPrev := some a, hdrCorrected := false })
      (hdrActive_iff.mpr ⟨henabled, hrdisabled, hrmode⟩) rfl rfl hsaturated
    have hrun : run = _ := conditionAll_of_stored_emitted hstore (hretake.trans hmerge)
    rw [hrun]
    exact ⟨rfl, rfl, _, rfl, hmerge⟩

end Sys2Proof.Machine
end

section
/-! PROOF LAYER for 41_roi_conditioner.md, continued. Sums of converted integers (00_scope.md R14, R15): the exact sum
is itself a NUM, so the nearest one is it. -/

namespace Sys2Proof

/-- A nearest NUM of what is itself the value of a NUM has that value. -/
theorem NUM.IsNearest.toRat_eq {x z : NUM} {v : ℝ} (h : x.IsNearest v) (hz : z.isFinite = true)
    (hv : (z.toRat : ℝ) = v) : x.toRat = z.toRat := by
  obtain ⟨-, hnear⟩ := h
  obtain ⟨hle, -⟩ := hnear z hz
  rw [hv, sub_self, abs_zero] at hle
  have hzero := abs_nonpos_iff.mp hle
  exact_mod_cast (sub_eq_zero.mp hzero).trans hv.symm

theorem NUM.negative_of_toRat_pos {x : NUM} (hx : x.isFinite = true) (hpos : 0 < x.toRat) : x.negative = false := by
  rw [NUM.toRat_of_isFinite hx] at hpos
  cases hneg : x.negative
  · rfl
  · have hmag : (0 : ℚ) ≤ patternUnits x.magnitude * unitValue := mul_nonneg (Nat.cast_nonneg _) unitValue_pos.le
    simp only [hneg, signFactor, if_true] at hpos
    linarith

/-- A NUM is its sign bit and its magnitude pattern. -/
theorem NUM.eq_of_sign_magnitude {x y : NUM} (hsign : x.negative = y.negative) (hmag : x.magnitude = y.magnitude) :
    x = y := by
  have hx : x.bits.toNat < 2 ^ 64 := x.bits.isLt
  have hy : y.bits.toNat < 2 ^ 64 := y.bits.isLt
  rw [NUM.negative, NUM.negative, Bool.eq_iff_iff, beq_iff_eq, beq_iff_eq] at hsign
  rw [NUM.magnitude, NUM.magnitude] at hmag
  have hbits : x.bits = y.bits := BitVec.eq_of_toNat_eq (by omega)
  cases x
  cases y
  exact congrArg NUM.mk hbits

/-- A value above 0 has at most one NUM. -/
theorem NUM.eq_of_toRat_eq {x y : NUM} (hx : x.isFinite = true) (hy : y.isFinite = true) (hpos : 0 < x.toRat)
    (h : x.toRat = y.toRat) : x = y := by
  have hxsign := NUM.negative_of_toRat_pos hx hpos
  have hysign := NUM.negative_of_toRat_pos hy (h ▸ hpos)
  rw [NUM.toRat_of_isFinite hx, NUM.toRat_of_isFinite hy, hxsign, hysign, signFactor_false, one_mul, one_mul] at h
  have hunits := mul_right_cancel₀ unitValue_pos.ne' h
  have hmag : x.magnitude = y.magnitude := patternUnits_strictMono.injective (by exact_mod_cast hunits)
  exact NUM.eq_of_sign_magnitude (hxsign.trans hysign.symm) hmag

/-- Sums of converted integers are exact below 2^53 (00_scope.md R15). -/
theorem NUM.add_ofNat {a b : Nat} (h : a + b < 2 ^ 53) : (NUM.ofNat a).add (NUM.ofNat b) = NUM.ofNat (a + b) := by
  by_cases h0 : a + b = 0
  · obtain ⟨rfl, rfl⟩ := Nat.add_eq_zero_iff.mp h0
    decide
  obtain ⟨hafin, haval⟩ := NUM.ofNat_exact (n := a) (by omega)
  obtain ⟨hbfin, hbval⟩ := NUM.ofNat_exact (n := b) (by omega)
  obtain ⟨hsfin, hsval⟩ := NUM.ofNat_exact h.le
  have hexact : ((NUM.ofNat a).toRat + (NUM.ofNat b).toRat : ℝ) = (a + b : Nat) := by
    rw [haval, hbval]
    push_cast
    rfl
  have hrange : NUM.InRange ((a + b : Nat) : ℝ) := by
    simpa using inRange_of_significand (e := 0) h (by norm_num)
  have hnear := NUM.add_isNearest hafin hbfin (hexact ▸ hrange)
  have hval := hnear.toRat_eq hsfin (by rw [hsval, hexact]; norm_cast)
  refine (NUM.eq_of_toRat_eq hsfin hnear.1 ?_ hval.symm).symm
  rw [hsval]
  exact_mod_cast Nat.pos_of_ne_zero h0

/-- A sum of converted integers, from its first term up, is the converted sum when that is below 2^53. -/
theorem NUM.foldl_add_ofNat {g : Nat → Nat} {n : Nat} (h : ((List.range (n + 1)).map g).sum < 2 ^ 53) :
    (List.range n).foldl (fun acc k => acc.add (NUM.ofNat (g (k + 1)))) (NUM.ofNat (g 0)) =
      NUM.ofNat ((List.range (n + 1)).map g).sum := by
  induction n with
  | zero => simp
  | succ n ih =>
    rw [List.sum_range_succ] at h
    rw [List.range_succ, List.foldl_append, ih (by omega), List.foldl_cons, List.foldl_nil, NUM.add_ofNat h,
      ← List.sum_range_succ]

end Sys2Proof
end

section
/-! PROOF of O31. De-rotation adds copies of 32-bit samples exactly (41_roi_conditioner.md R206). -/

namespace Sys2Proof.Machine

/-- The number of copies that de-rotation adds. -/
def copiesAdded (h : RoiHeader) : Nat := if h.tapAccum then h.rotations else 1

/-- The sum of the copies' samples that make tap `t` of a pixel, as a whole number. -/
def copySum (roi : RoiRecord) (f i c t : Nat) : Nat :=
  ((List.range (copiesAdded roi.header)).map fun j => roi.raw f j i c ((t + j) % 3)).sum

/-- At most three words are added. -/
theorem copySum_lt (roi : RoiRecord) (f i c t : Nat) : copySum roi f i c t < 2 ^ 53 := by
  have hcopies : copiesAdded roi.header ≤ 3 := by
    have hnrot : roi.header.nrot.toNat < 4 := roi.header.nrot.isLt
    unfold copiesAdded RoiHeader.rotations
    split <;> omega
  have hsum := List.sum_le_card_nsmul ((List.range (copiesAdded roi.header)).map fun j => roi.raw f j i c ((t + j) % 3))
    (2 ^ 32) (List.forall_mem_map.mpr fun j _ => (BitVec.isLt _).le)
  rw [List.length_map, List.length_range, smul_eq_mul] at hsum
  unfold copySum
  omega

/-- A de-rotated tap is the sum of the rotated copies, exactly. -/
theorem derotatedTap_eq_copySum {roi : RoiRecord} {t : Nat} (f i c : Nat) (hrot : roi.header.rotations ≠ 0)
    (ht : t < 3) :
    derotatedTap roi f i c t = NUM.ofNat (copySum roi f i c t) := by
  have hlt := copySum_lt roi f i c t
  have hfirst : roi.raw f 0 i c t = roi.raw f 0 i c ((t + 0) % 3) := by rw [Nat.add_zero, Nat.mod_eq_of_lt ht]
  rw [copySum, copiesAdded] at hlt ⊢
  rw [derotatedTap, hfirst]
  split
  next haccum =>
    obtain ⟨n, hn⟩ := Nat.exists_eq_succ_of_ne_zero hrot
    rw [if_pos haccum, hn] at hlt
    rw [hn, Nat.succ_sub_one]
    exact NUM.foldl_add_ofNat (g := fun j => roi.raw f j i c ((t + j) % 3)) hlt
  next => simp

/-- Settles O31: each tap is the `copySum` of its frequency. -/
theorem derotationSumsCopiesExactly : Obligations.DerotationSumsCopiesExactly := by
  intro roi i c t hrot hi hc ht copies total
  have htap (f : Nat) : (Taps.build (derotatedTap roi f i c)).tap t = NUM.ofNat (total f) :=
    (Taps.tap_build _ ht).trans (derotatedTap_eq_copySum f i c hrot ht)
  refine ⟨?_, ?_, copySum_lt roi 0 i c t, copySum_lt roi 1 i c t, rfl⟩
  · rw [← htap 0, derotate, Grid.taps_build _ hi hc]
  · rw [← htap 1, derotate, Grid.taps_build _ hi hc]

end Sys2Proof.Machine
end

section
/-! PROOF LAYER for 42_frame_assembler.md R224 and R225. The taps of the zero triple, and what a sum's start from +0.0
changes: no NUM but a NaN and -0.0 (00_scope.md R14). -/

namespace Sys2Proof

theorem NUM.neg_neg (x : NUM) : x.neg.neg = x := by
  cases x
  simp [NUM.neg]

/-- A value other than 0 has at most one NUM. -/
theorem NUM.eq_of_toRat_eq_of_ne_zero {x y : NUM} (hx : x.isFinite = true) (hy : y.isFinite = true)
    (hne : x.toRat ≠ 0) (h : x.toRat = y.toRat) : x = y := by
  rcases lt_or_gt_of_ne hne with hlt | hgt
  · obtain ⟨hxfin, hxval⟩ := NUM.toRat_neg hx
    obtain ⟨hyfin, hyval⟩ := NUM.toRat_neg hy
    have hneg : x.neg = y.neg := NUM.eq_of_toRat_eq hxfin hyfin (by linarith) (by rw [hxval, hyval, h])
    rw [← x.neg_neg, hneg, y.neg_neg]
  · exact NUM.eq_of_toRat_eq hx hy hgt h

/-- Only the two zeros have the value 0. -/
theorem NUM.eq_zeroOf_of_toRat_eq_zero {x : NUM} (hx : x.isFinite = true) (h : x.toRat = 0) :
    x = NUM.zeroOf x.negative := by
  obtain ⟨hmag, hneg, -⟩ := NUM.signed_bits x.negative (n := 0) (by norm_num)
  refine NUM.eq_of_sign_magnitude hneg.symm (Eq.trans ?_ hmag.symm)
  have hsign : signFactor x.negative ≠ 0 := by cases x.negative <;> simp [signFactor]
  rw [NUM.toRat_of_isFinite hx, mul_eq_zero, mul_eq_zero, Nat.cast_eq_zero] at h
  have hunits : patternUnits x.magnitude = patternUnits 0 :=
    (h.resolve_left hsign).resolve_right unitValue_pos.ne'
  exact patternUnits_strictMono.injective hunits

theorem NUM.inRange_toRat {x : NUM} (hx : x.isFinite = true) : NUM.InRange x.toRat := by
  obtain ⟨neg, m, e, -, hm, -, he, hval⟩ := NUM.exists_unpack hx
  have habs : |(x.toRat : ℝ)| = |(m : ℝ) * 2 ^ e| := by
    rw [hval, ← Rat.cast_abs, abs_signFactor_mul]
    push_cast
    rfl
  rw [NUM.InRange, habs]
  exact inRange_of_significand hm he

/-- What is neither a NaN nor finite is an infinity. -/
theorem NUM.eq_infOf {x : NUM} (hnan : x.isNaN = false) (hfin : x.isFinite = false) : x = NUM.infOf x.negative := by
  obtain ⟨hmag, hneg, -⟩ := NUM.signed_bits x.negative (n := 0x7FF0000000000000) (by norm_num)
  refine NUM.eq_of_sign_magnitude hneg.symm (Eq.trans ?_ hmag.symm)
  simp only [NUM.isNaN, NUM.isFinite, decide_eq_false_iff_not] at hnan hfin
  unfold NUM.magnitude
  omega

/-- Adding to +0.0 is exact. The sum of +0.0 and -0.0 is +0.0, and a NaN becomes the NaN of the operations. -/
theorem NUM.zero_add_eq {x : NUM} (hnan : x.isNaN = false) (hnegZero : x ≠ ⟨0x8000000000000000⟩) :
    NUM.zero.add x = x := by
  have hzero : NUM.zero.isFinite = true ∧ NUM.zero.toRat = 0 := ⟨by decide, NUM.toRat_zeroOf false⟩
  cases hfin : x.isFinite
  case false =>
    rw [NUM.eq_infOf hnan hfin]
    cases x.negative <;> decide
  case true =>
    by_cases hval : x.toRat = 0
    · have hx := NUM.eq_zeroOf_of_toRat_eq_zero hfin hval
      cases hneg : x.negative <;> rw [hneg] at hx
      · rw [hx]
        decide
      · exact absurd (hx.trans (by decide)) hnegZero
    · have hsum : (NUM.zero.toRat + x.toRat : ℝ) = x.toRat := by rw [hzero.2, Rat.cast_zero, zero_add]
      have hnear := NUM.add_isNearest hzero.1 hfin (by rw [hsum]; exact NUM.inRange_toRat hfin)
      have heq := hnear.toRat_eq hfin hsum.symm
      exact NUM.eq_of_toRat_eq_of_ne_zero hnear.1 hfin (heq ▸ hval) heq

/-- A sum of one term is that term. -/
theorem NUM.sumUp_one {f : Nat → NUM} (hnan : (f 0).isNaN = false) (hnegZero : f 0 ≠ ⟨0x8000000000000000⟩) :
    NUM.sumUp 1 f = f 0 := by
  rw [NUM.sumUp_succ, NUM.sumUp_zero, NUM.zero_add_eq hnan hnegZero]

@[simp] theorem Taps.tap_zero (t : Nat) : Taps.zero.tap t = NUM.zero := by
  unfold Taps.tap
  split <;> rfl

end Sys2Proof
end

section
/-! PROOF LAYER for 42_frame_assembler.md R223. Row voting seen from one index of the three pixel maps: each pixel of the
ROI votes there once, and no other vote or row start touches it. -/

namespace Sys2Proof.Machine

/-- A fold over `0 .. n-1` of which only step `j` changes what `obs` sees, as `g` does. `P` is kept under way. -/
theorem foldl_range_once {σ β : Type} {step : σ → Nat → σ} {P : σ → Prop} {obs : σ → β} {g : β → β} {s : σ} {j n : Nat}
    (hs : P s) (hkeep : ∀ s i, P s → P (step s i)) (hother : ∀ s i, i ≠ j → P s → obs (step s i) = obs s)
    (hthis : ∀ s, P s → obs (step s j) = g (obs s)) :
    obs ((List.range n).foldl step s) = if j < n then g (obs s) else obs s := by
  induction n with
  | zero => rfl
  | succ n ih =>
    have hn : P ((List.range n).foldl step s) := List.foldlRecOn _ _ hs fun s' h i _ => hkeep s' i h
    rw [List.range_succ, List.foldl_append, List.foldl_cons, List.foldl_nil]
    rcases Nat.lt_trichotomy n j with hlt | rfl | hgt
    · rw [hother _ _ hlt.ne hn, ih, if_neg (by omega), if_neg (by omega)]
    · rw [hthis _ hn, ih, if_neg (lt_irrefl n), if_pos n.lt_succ_self]
    · rw [hother _ _ hgt.ne' hn, ih, if_pos hgt, if_pos (by omega)]

/-- The vote and the two triples held at an index. -/
def Context.voteAt (c : Context) (k : Nat) : NUM × Taps × Taps :=
  (Memory.read NUM.negInf c.vote k, Memory.read Taps.zero c.raw0 k, Memory.read Taps.zero c.raw1 k)

/-- What a pixel of a ROI leaves of the vote and the triples held at its index. -/
def keptVote (e : RoiView) (i col : Nat) (held : NUM × Taps × Taps) : NUM × Taps × Taps :=
  if held.1.lt (combinedProxy e i col) then (combinedProxy e i col, e.tap0.taps i col, e.tap1.taps i col) else held

/-! ### One pixel -/

section
variable {c : Context} (e : RoiView) (i r col : Nat)

theorem votePixel_of_wins (h : (c.voteAt (pixKey r col)).1.lt (combinedProxy e i col) = true) :
    votePixel e i r c col =
      { c with
        vote := Memory.write NUM.negInf c.vote (pixKey r col) (combinedProxy e i col)
        raw0 := Memory.write Taps.zero c.raw0 (pixKey r col) (e.tap0.taps i col)
        raw1 := Memory.write Taps.zero c.raw1 (pixKey r col) (e.tap1.taps i col) } :=
  if_pos h

theorem votePixel_of_loses (h : ¬(c.voteAt (pixKey r col)).1.lt (combinedProxy e i col) = true) :
    votePixel e i r c col = c :=
  if_neg h

theorem votePixel_memoryCanonical (hc : c.memoryCanonical = true) :
    (votePixel e i r c col).memoryCanonical = true := by
  obtain ⟨⟨hactive, hraw0, hraw1, hvote⟩, hrest⟩ := Context.memoryCanonical_iff.mp hc
  rcases votePixel_cases e i r c col with heq | ⟨_, _, _, heq⟩ <;> rw [heq]
  · exact hc
  · exact Context.memoryCanonical_iff.mpr
      ⟨⟨hactive, Memory.wf_write _ _ hraw0, Memory.wf_write _ _ hraw1, Memory.wf_write _ _ hvote⟩, hrest⟩

theorem votePixel_voteAt_same (hc : c.memoryCanonical = true) :
    (votePixel e i r c col).voteAt (pixKey r col) = keptVote e i col (c.voteAt (pixKey r col)) := by
  obtain ⟨⟨-, hraw0, hraw1, hvote⟩, -⟩ := Context.memoryCanonical_iff.mp hc
  by_cases hwins : (c.voteAt (pixKey r col)).1.lt (combinedProxy e i col) = true
  · rw [keptVote, if_pos hwins, votePixel_of_wins e i r col hwins]
    simp only [Context.voteAt, Memory.read_write_same _ hvote, Memory.read_write_same _ hraw0,
      Memory.read_write_same _ hraw1]
  · rw [keptVote, if_neg hwins, votePixel_of_loses e i r col hwins]

theorem votePixel_voteAt_other {k : Nat} (hk : k ≠ pixKey r col) : (votePixel e i r c col).voteAt k = c.voteAt k := by
  rcases votePixel_cases e i r c col with heq | ⟨_, _, _, heq⟩ <;> rw [heq]
  simp only [Context.voteAt, Memory.read_write_other _ hk]

end

/-! ### One row -/

section
variable (e : RoiView) (c : Context) (i : Nat)

/-- What the row start and every vote of the row keep, the row keeps. -/
theorem voteRow_induction {P : Context → Prop}
    (hstart : P { c with active := Memory.write false c.active (frameRow c.fd e.header i) true })
    (hpixel : ∀ c' col, col < c.fd.winNcols.toNat → P c' → P (votePixel e i (frameRow c.fd e.header i) c' col)) :
    P (voteRow e c i) :=
  List.foldlRecOn _ _ hstart fun c' h col hcol => hpixel c' col (List.mem_range.mp hcol) h

theorem voteRow_fd : (voteRow e c i).fd = c.fd :=
  voteRow_induction e c i (P := fun c' => c'.fd = c.fd) rfl fun c' col _ h => by rw [votePixel_frame]; exact h

theorem voteRow_active : (voteRow e c i).active = Memory.write false c.active (frameRow c.fd e.header i) true :=
  voteRow_induction e c i (P := fun c' => c'.active = _) rfl fun c' col _ h => by rw [votePixel_frame]; exact h

variable {c}

theorem rowStart_memoryCanonical (r : Nat) (hc : c.memoryCanonical = true) :
    ({ c with active := Memory.write false c.active r true } : Context).memoryCanonical = true := by
  obtain ⟨⟨hactive, hmaps⟩, hrest⟩ := Context.memoryCanonical_iff.mp hc
  exact Context.memoryCanonical_iff.mpr ⟨⟨Memory.wf_write _ _ hactive, hmaps⟩, hrest⟩

theorem voteRow_memoryCanonical (hc : c.memoryCanonical = true) : (voteRow e c i).memoryCanonical = true :=
  voteRow_induction e c i (P := fun c' => c'.memoryCanonical = true) (rowStart_memoryCanonical _ hc)
    fun _ col _ h => votePixel_memoryCanonical e i _ col h

/-- The start of a row is not seen in the pixel maps, and each pixel of the row votes once. -/
theorem voteRow_voteAt_same {col : Nat} (hc : c.memoryCanonical = true) (hcol : col < c.fd.winNcols.toNat) :
    (voteRow e c i).voteAt (pixKey (frameRow c.fd e.header i) col) =
      keptVote e i col (c.voteAt (pixKey (frameRow c.fd e.header i) col)) := by
  have hrow := foldl_range_once (n := c.fd.winNcols.toNat) (j := col) (P := fun c' => c'.memoryCanonical = true)
    (step := votePixel e i (frameRow c.fd e.header i)) (obs := (·.voteAt (pixKey (frameRow c.fd e.header i) col)))
    (rowStart_memoryCanonical (frameRow c.fd e.header i) hc)
    (fun _ col' h => votePixel_memoryCanonical e i _ col' h)
    (fun _ col' hne _ => votePixel_voteAt_other e i _ col' (by unfold pixKey; omega))
    fun _ h => votePixel_voteAt_same e i _ col h
  rw [if_pos hcol] at hrow
  exact hrow

theorem voteRow_voteAt_other {k : Nat} (hk : ∀ col < c.fd.winNcols.toNat, k ≠ pixKey (frameRow c.fd e.header i) col) :
    (voteRow e c i).voteAt k = c.voteAt k :=
  voteRow_induction e c i (P := fun c' => c'.voteAt k = c.voteAt k) rfl fun _ col hcol h =>
    (votePixel_voteAt_other e i _ col (hk col hcol)).trans h

end

/-! ### The whole ROI -/

section
variable {c : Context} (e : RoiView)

theorem foldl_voteRow_keeps (n : Nat) (hc : c.memoryCanonical = true) :
    ((List.range n).foldl (voteRow e) c).memoryCanonical = true ∧ ((List.range n).foldl (voteRow e) c).fd = c.fd :=
  List.foldlRecOn (motive := fun c' => c'.memoryCanonical = true ∧ c'.fd = c.fd) _ _ ⟨hc, rfl⟩ fun c' ⟨h, hfd⟩ i _ =>
    ⟨voteRow_memoryCanonical e i h, (voteRow_fd e c' i).trans hfd⟩

/-- The active rows after the first `n` rows of a ROI. -/
theorem foldl_voteRow_active_iff (n r : Nat) (hc : c.memoryCanonical = true) :
    Memory.read false ((List.range n).foldl (voteRow e) c).active r = true ↔
      Memory.read false c.active r = true ∨ ∃ i < n, r = frameRow c.fd e.header i := by
  induction n with
  | zero => simp
  | succ n ih =>
    obtain ⟨hcanon, hfd⟩ := foldl_voteRow_keeps e n hc
    obtain ⟨⟨hactive, -⟩, -⟩ := Context.memoryCanonical_iff.mp hcanon
    rw [List.range_succ, List.foldl_append, List.foldl_cons, List.foldl_nil, voteRow_active, hfd]
    by_cases hr : r = frameRow c.fd e.header n
    · rw [← hr, Memory.read_write_same _ hactive]
      exact iff_of_true rfl (.inr ⟨n, n.lt_succ_self, hr⟩)
    · rw [Memory.read_write_other _ hr, ih, Nat.exists_lt_succ_right, or_iff_left hr]

/-- The active rows after a ROI. -/
theorem gridAccumulate_active_iff (r : Nat) (hc : c.memoryCanonical = true) :
    Memory.read false (gridAccumulate c e).active r = true ↔
      Memory.read false c.active r = true ∨ ∃ i < e.header.rows, r = frameRow c.fd e.header i :=
  foldl_voteRow_active_iff e e.header.rows r hc

/-- The rows of a ROI are different frame rows, so each of its pixels votes once in the frame. -/
theorem gridAccumulate_voteAt_same {i col : Nat} (hc : c.memoryCanonical = true) (hi : i < e.header.rows)
    (hcol : col < c.fd.winNcols.toNat) :
    (gridAccumulate c e).voteAt (pixKey (frameRow c.fd e.header i) col) =
      keptVote e i col (c.voteAt (pixKey (frameRow c.fd e.header i) col)) := by
  have hncols : c.fd.winNcols.toNat < 2 ^ 16 := c.fd.winNcols.isLt
  have hframe := foldl_range_once (n := e.header.rows) (j := i) (step := voteRow e)
    (P := fun c' => c'.memoryCanonical = true ∧ c'.fd = c.fd)
    (obs := (·.voteAt (pixKey (frameRow c.fd e.header i) col))) ⟨hc, rfl⟩
    (fun c' i' ⟨h, hfd⟩ => ⟨voteRow_memoryCanonical e i' h, (voteRow_fd e c' i').trans hfd⟩)
    (fun c' i' hne ⟨_, hfd⟩ => voteRow_voteAt_other e i' fun col' hcol' => by
      rw [hfd] at hcol' ⊢
      unfold pixKey frameRow
      omega)
    fun c' ⟨h, hfd⟩ => by
      have hrow := voteRow_voteAt_same e i h (hfd ▸ hcol)
      rwa [hfd] at hrow
  rw [if_pos hi] at hframe
  exact hframe

theorem gridAccumulate_voteAt_other {k : Nat}
    (hk : ∀ i col, i < e.header.rows → col < c.fd.winNcols.toNat → k ≠ pixKey (frameRow c.fd e.header i) col) :
    (gridAccumulate c e).voteAt k = c.voteAt k :=
  gridAccumulate_induction (P := fun c' => c'.voteAt k = c.voteAt k) rfl (fun _ _ _ h => h) fun _ i col hi hcol h =>
    (votePixel_voteAt_other e i _ col (hk i col hi hcol)).trans h

end

end Sys2Proof.Machine
end

section
/-! PROOF of O32. Row voting (42_frame_assembler.md R222, R223). -/

namespace Sys2Proof.Machine

theorem voteAt_eq_iff {c : Context} {k : Nat} {q : NUM} {x0 x1 : Taps} :
    c.voteAt k = (q, x0, x1) ↔
      Memory.read NUM.negInf c.vote k = q ∧ Memory.read Taps.zero c.raw0 k = x0 ∧
        Memory.read Taps.zero c.raw1 k = x1 := by
  rw [Context.voteAt, Prod.mk.injEq, Prod.mk.injEq]

/-- Settles O32: the votes of the pixels do not meet, so each pixel's outcome is that of its own vote. -/
theorem gridVoteKeepsLargerProxy : Obligations.GridVoteKeepsLargerProxy := by
  intro ctx e hcanon after row
  refine ⟨gridAccumulate_frame ctx e, fun r => gridAccumulate_active_iff e r hcanon, fun i col hi hcol => ?_,
    fun k hk => ?_⟩
  · intro k proxyOf q
    have hvote := gridAccumulate_voteAt_same e hcanon hi hcol
    constructor
    · intro hlarger
      exact voteAt_eq_iff.mp (hvote.trans (if_pos hlarger))
    · intro hkept
      exact voteAt_eq_iff.mp (hvote.trans (if_neg (Bool.eq_false_iff.mp hkept)))
  · exact voteAt_eq_iff.mp (gridAccumulate_voteAt_other e hk)

end Sys2Proof.Machine
end

section
/-! PROOF of O33. The five cases of the row fill (42_frame_assembler.md R224). -/

namespace Sys2Proof.Machine

section
variable {ctx : Context} {raw : Memory Taps} {r c : Nat}

theorem filledPixel_of_active (h : Memory.read false ctx.active r = true) :
    filledPixel ctx raw r c = Memory.read Taps.zero raw (pixKey r c) := by
  simp only [filledPixel, h, if_true]

/-- A row that was not written looks at the row above and the row below, as far as the window has them. -/
theorem filledPixel_of_inactive (h : Memory.read false ctx.active r = false) :
    filledPixel ctx raw r c =
      if 1 ≤ r ∧ Memory.read false ctx.active (r - 1) = true then
        if r + 1 < ctx.fd.winNrows.toNat ∧ Memory.read false ctx.active (r + 1) = true then
          Taps.mean (Memory.read Taps.zero raw (pixKey (r - 1) c)) (Memory.read Taps.zero raw (pixKey (r + 1) c))
        else Memory.read Taps.zero raw (pixKey (r - 1) c)
      else
        if r + 1 < ctx.fd.winNrows.toNat ∧ Memory.read false ctx.active (r + 1) = true then
          Memory.read Taps.zero raw (pixKey (r + 1) c)
        else Taps.zero := by
  simp only [filledPixel, h, Bool.false_eq_true, if_false, Bool.and_eq_true, decide_eq_true_eq]
  split_ifs <;> tauto

end

/-- Settles O33: a row that was not written is filled by which of its two neighbours are active. -/
theorem rowFillUsesActiveNeighbours : Obligations.RowFillUsesActiveNeighbours := by
  intro ctx raw r c t hr hc ht on x up dn filled
  have hfilled : filled = (filledPixel ctx raw r c).tap t := congrArg (·.tap t) (Grid.taps_build _ hr hc)
  refine ⟨fun hon => ?_, fun hoff => ?_⟩
  · rw [hfilled, filledPixel_of_active hon]
  rw [hfilled, filledPixel_of_inactive hoff]
  refine ⟨fun hup hdn => ?_, fun hup hdn => ?_, fun hup hdn => ?_, fun hup hdn => ?_⟩
  · rw [if_pos hup, if_pos hdn, Taps.mean, Taps.tap_build _ ht]
    rfl
  · rw [if_pos hup, if_neg hdn]
  · rw [if_neg hup, if_pos hdn]
  · rw [if_neg hup, if_neg hdn, Taps.tap_zero]
    rfl

end Sys2Proof.Machine
end

section
/-! PROOF of O34. Binning sums each block (42_frame_assembler.md R225). -/

namespace Sys2Proof.Machine

/-- Place `u` of block `i` lies in what the blocks fill. -/
theorem block_place_lt {n b i u : Nat} (hi : i < n / b) (hu : u < b) : i * b + u < n :=
  (mul_add_lt_mul hi hu).trans_le (Nat.div_mul_le_self n b)

/-- The sums along the rows of a block, added down its rows. -/
theorem gridBin_tap (fd : FrameDesc) (filled : Grid Taps) {i j t : Nat} (hi : i < fd.gridRows) (hj : j < fd.outCols)
    (ht : t < 3) :
    ((gridBin fd filled).taps i j).tap t =
      NUM.sumUp fd.bin.toNat fun u => NUM.sumUp fd.bin.toNat fun u' =>
        (filled.taps (i * fd.bin.toNat + u) (j * fd.bin.toNat + u')).tap t := by
  rw [gridBin, Grid.taps_build _ hi hj, Taps.tap_build _ ht]
  refine NUM.sumUp_congr fun u hu => ?_
  rw [Grid.taps_build _ (block_place_lt hi hu) hj, Taps.tap_build _ ht]

/-- Settles O34: binning by 1 sums one tap along a row and again down one row. -/
theorem gridBinningSumsBlocks : Obligations.GridBinningSumsBlocks := by
  intro fd filled i j t hi hj ht b
  have hsum := gridBin_tap fd filled hi hj ht
  refine ⟨hsum, fun hb hnan hnegZero => ?_⟩
  have hrow : (NUM.sumUp 1 fun u' => (filled.taps i (j + u')).tap t) = (filled.taps i j).tap t :=
    NUM.sumUp_one hnan hnegZero
  have hcol : (NUM.sumUp 1 fun u => NUM.sumUp 1 fun u' => (filled.taps (i + u) (j + u')).tap t) =
      NUM.sumUp 1 fun u' => (filled.taps i (j + u')).tap t :=
    NUM.sumUp_one (hrow ▸ hnan) (hrow ▸ hnegZero)
  have hb' : fd.bin.toNat = 1 := hb
  rw [hsum, hb', mul_one, mul_one, hcol, hrow]

end Sys2Proof.Machine
end

section
/-! PROOF LAYER for 42_frame_assembler.md R230 to R233. The weights by the window, and what a stripe adds to a row of the
stripe buffers, entry by entry. -/

namespace Sys2Proof.Machine

/-- STRIPE_WINDOW as a number. -/
theorem ctrlStripeWindow_toNat (ctrl : BitVec 32) : (ctrlStripeWindow ctrl).toNat = ctrl.toNat % 4 := by
  rw [ctrlStripeWindow, BitVec.extractLsb'_toNat, Nat.shiftRight_zero]

section
variable {p : Params} {ctrl : BitVec 32} {e : RoiView}

theorem stripeWeight_of_uniform (h : ctrl.toNat % 4 = 0) (i c : Nat) : stripeWeight p ctrl e i c = NUM.one := by
  simp only [stripeWeight, ctrlStripeWindow_toNat, h]

theorem stripeWeight_of_gauss (h : ctrl.toNat % 4 = 1) (i c : Nat) :
    stripeWeight p ctrl e i c = gaussWeight p.gaussSigma e.header.rows i := by
  simp only [stripeWeight, ctrlStripeWindow_toNat, h]

theorem stripeWeight_of_proxy (h : ctrl.toNat % 4 = 2) (i c : Nat) :
    stripeWeight p ctrl e i c = combinedProxy e i c := by
  simp only [stripeWeight, ctrlStripeWindow_toNat, h]

end

theorem getD_map_range {α : Type} (f : Nat → α) (d : α) {n k : Nat} (hk : k < n) :
    ((List.range n).map f).getD k d = f k := by
  simp [List.getD, hk]

section
variable {fd : FrameDesc} {w : Grid NUM} {rows cols j : Nat} {f : Nat → Nat → NUM}

/-- The binned count of a column (42_frame_assembler.md R231, R232). -/
theorem stripeCounts_getD (hw : Grid.Holds NUM.zero rows fd.winNcols.toNat w f) (hj : j < fd.outCols) :
    (stripeCounts fd w rows).getD j NUM.zero =
      NUM.sumUp fd.bin.toNat fun u => NUM.sumUp rows fun i => f i (j * fd.bin.toNat + u) := by
  rw [stripeCounts, getD_map_range _ _ hj]
  refine NUM.sumUp_congr fun u hu => ?_
  have hcol := block_place_lt hj hu
  rw [getD_map_range _ _ hcol, weightSum]
  exact NUM.sumUp_congr fun i hi => hw _ _ hi hcol

/-- A binned tap of a column (42_frame_assembler.md R231, R232). -/
theorem stripeTaps_getD_tap (hw : Grid.Holds NUM.zero rows fd.winNcols.toNat w f) (taps : Grid Taps)
    (hj : j < fd.outCols) {t : Nat} (ht : t < 3) :
    ((stripeTaps fd w taps rows).getD j Taps.zero).tap t =
      NUM.sumUp fd.bin.toNat fun u => NUM.sumUp rows fun i =>
        (f i (j * fd.bin.toNat + u)).mul ((taps.taps i (j * fd.bin.toNat + u)).tap t) := by
  rw [stripeTaps, getD_map_range _ _ hj, Taps.tap_build _ ht]
  refine NUM.sumUp_congr fun u hu => ?_
  have hcol := block_place_lt hj hu
  rw [getD_map_range _ _ hcol, collapsedTaps, Taps.tap_build _ ht]
  exact NUM.sumUp_congr fun i hi => congrArg (NUM.mul · _) (hw _ _ hi hcol)

end

section
variable {p : Params} {ctrl : BitVec 32} {c : Context} {e : RoiView}

/-- A frame with room takes a stripe as its next row (42_frame_assembler.md R233). -/
theorem stripeAccumulate_of_room (h : c.stripeCount < p.maxRows.val) :
    stripeAccumulate p ctrl c e =
      some { c with
        srow0 := Memory.writeRow Taps.zero c.srow0 c.stripeCount c.fd.outCols fun j =>
          (stripeTaps c.fd (stripeWeights p ctrl e) e.tap0 e.header.rows).getD j Taps.zero
        srow1 := Memory.writeRow Taps.zero c.srow1 c.stripeCount c.fd.outCols fun j =>
          (stripeTaps c.fd (stripeWeights p ctrl e) e.tap1 e.header.rows).getD j Taps.zero
        snorm := Memory.writeRow NUM.zero c.snorm c.stripeCount c.fd.outCols fun j =>
          (stripeCounts c.fd (stripeWeights p ctrl e) e.header.rows).getD j NUM.zero
        stripeCount := c.stripeCount + 1 } := by
  rw [stripeAccumulate, if_neg (Nat.not_le.mpr h)]

theorem stripeAccumulate_of_full (h : p.maxRows.val ≤ c.stripeCount) : stripeAccumulate p ctrl c e = none := by
  rw [stripeAccumulate, if_pos h]

end

end Sys2Proof.Machine
end

section
/-! PROOF of O35. -/

namespace Sys2Proof.Machine

/-- Settles O35: each entry of the new row is the binned sum of the weighted columns, whose weights the three windows
give. -/
theorem stripeBecomesNextRow : Obligations.StripeBecomesNextRow := by
  intro p ctrl ctx e hcanon hcols
  obtain ⟨-, ⟨hsrow0, hsrow1, hsnorm⟩, -⟩ := Context.memoryCanonical_iff.mp hcanon
  have hweights : Grid.Holds NUM.zero e.header.rows ctx.fd.winNcols.toNat (stripeWeights p ctrl e)
      (stripeWeight p ctrl e) := by
    rw [stripeWeights, RoiHeader.cols, hcols]
    exact Grid.holds_build _ fun _ _ _ _ => rfl
  refine ⟨fun i c => ⟨fun h => stripeWeight_of_uniform h i c, fun h => stripeWeight_of_gauss h i c,
    fun h => stripeWeight_of_proxy h i c⟩, stripeAccumulate_of_full, fun hroom => ?_⟩
  refine ⟨_, stripeAccumulate_of_room hroom, rfl, fun j t hj ht => ⟨?_, ?_, ?_⟩, fun k hk => ⟨?_, ?_, ?_⟩⟩
  · exact Eq.trans (congrArg (Taps.tap · t) (Memory.read_writeRow_same _ hsrow0 hj))
      (stripeTaps_getD_tap hweights e.tap0 hj ht)
  · exact Eq.trans (congrArg (Taps.tap · t) (Memory.read_writeRow_same _ hsrow1 hj))
      (stripeTaps_getD_tap hweights e.tap1 hj ht)
  · exact (Memory.read_writeRow_same _ hsnorm hj).trans (stripeCounts_getD hweights hj)
  · exact Memory.read_writeRow_other _ hk
  · exact Memory.read_writeRow_other _ hk
  · exact Memory.read_writeRow_other _ hk

end Sys2Proof.Machine
end

section
/-! PROOF LAYER for 43_demodulator.md. Sums, differences and minima of the demodulator at the edges of 00_scope.md R14:
what a NaN, an infinity and the zeros of either sign do to them, and the doubling of a value. -/

namespace Sys2Proof

/-! ### NaN -/

theorem NUM.unpack_of_isNaN {x : NUM} (h : x.isNaN = true) : x.unpack = .nan := by
  simp only [NUM.isNaN, decide_eq_true_eq] at h
  have hx : x.bits.toNat < 2 ^ 64 := x.bits.isLt
  unfold NUM.unpack
  simp only []
  rw [if_pos (by omega), if_neg (by omega)]

/-- The NaN an operation delivers is a NaN, whatever its sign and payload. -/
theorem NUM.isNaN_nan : NUM.nan.isNaN = true := by
  have hpayload : Config.nanPayload.toNat % 2 ^ 51 < 2 ^ 51 := Nat.mod_lt _ (by norm_num)
  obtain ⟨hmag, -, -⟩ := NUM.signed_bits (Config.nanPayload.getLsbD 51)
    (n := 0x7FF8000000000000 + Config.nanPayload.toNat % 2 ^ 51) (by omega)
  have hlt : 0x7FF0000000000000 < NUM.nan.magnitude := by
    rw [NUM.nan, hmag]
    omega
  exact decide_eq_true hlt

theorem NUM.add_of_isNaN_left {x : NUM} (h : x.isNaN = true) (y : NUM) : x.add y = NUM.nan := by
  rw [NUM.add, NUM.unpack_of_isNaN h]

theorem NUM.add_of_isNaN_right (x : NUM) {y : NUM} (h : y.isNaN = true) : x.add y = NUM.nan := by
  rw [NUM.add, NUM.unpack_of_isNaN h]
  cases x.unpack <;> rfl

/-- A NaN is not below and not above anything. -/
theorem NUM.lt_of_isNaN_right (x : NUM) {y : NUM} (h : y.isNaN = true) : x.lt y = false := by
  simp [NUM.lt, h]

/-! ### Addition in either order -/

theorem NUM.add_comm (x y : NUM) : x.add y = y.add x := by
  unfold NUM.add
  cases x.unpack with
  | nan => cases y.unpack <;> rfl
  | inf a =>
    cases y.unpack with
    | nan => rfl
    | inf b => cases a <;> cases b <;> rfl
    | fin b m2 e2 => rfl
  | fin a m1 e1 =>
    cases y.unpack with
    | nan => rfl
    | inf b => rfl
    | fin b m2 e2 =>
      simp only []
      rw [min_comm e2 e1, Int.add_comm (unitsOf b m2 e2 _), Bool.and_comm b a]

/-- -0.0. -/
def NUM.negZero : NUM := ⟨0x8000000000000000⟩

/-- -0.0 is neutral for addition, for +0.0 and -0.0 too. -/
theorem NUM.add_negZero {x : NUM} (hnan : x.isNaN = false) : x.add NUM.negZero = x := by
  have hzero : NUM.negZero.isFinite = true ∧ NUM.negZero.toRat = 0 := ⟨by decide, NUM.toRat_zeroOf true⟩
  cases hfin : x.isFinite
  case false =>
    rw [NUM.eq_infOf hnan hfin]
    cases x.negative <;> decide
  case true =>
    by_cases hval : x.toRat = 0
    · rw [NUM.eq_zeroOf_of_toRat_eq_zero hfin hval]
      cases x.negative <;> decide
    · have hsum : (x.toRat + NUM.negZero.toRat : ℝ) = x.toRat := by rw [hzero.2, Rat.cast_zero, add_zero]
      have hnear := NUM.add_isNearest hfin hzero.1 (by rw [hsum]; exact NUM.inRange_toRat hfin)
      have heq := hnear.toRat_eq hfin hsum.symm
      exact NUM.eq_of_toRat_eq_of_ne_zero hnear.1 hfin (heq ▸ hval) heq

/-- A sum that starts at +0.0 is no NaN when its term is none. -/
theorem NUM.isNaN_zero_add {x : NUM} (hnan : x.isNaN = false) : (NUM.zero.add x).isNaN = false := by
  by_cases hx : x = NUM.negZero
  · rw [hx]
    decide
  · rwa [NUM.zero_add_eq hnan hx]

/-- Two terms added to +0.0 give the same sum in either order (43_demodulator.md R263). A term -0.0 is where the sum
of the two terms alone would not do: it is lost beside +0.0, and changes no sum that has begun. -/
theorem NUM.zero_add_add_comm (x y : NUM) : (NUM.zero.add x).add y = (NUM.zero.add y).add x := by
  have lost {z : NUM} (hz : z.isNaN = false) : (NUM.zero.add NUM.negZero).add z = (NUM.zero.add z).add NUM.negZero := by
    rw [NUM.add_negZero (NUM.isNaN_zero_add hz), NUM.add_negZero (by decide)]
  cases hxnan : x.isNaN
  case true => rw [NUM.add_of_isNaN_right _ hxnan, NUM.add_of_isNaN_right _ hxnan, NUM.add_of_isNaN_left NUM.isNaN_nan]
  cases hynan : y.isNaN
  case true => rw [NUM.add_of_isNaN_right _ hynan, NUM.add_of_isNaN_right _ hynan, NUM.add_of_isNaN_left NUM.isNaN_nan]
  by_cases hx : x = NUM.negZero
  · exact hx ▸ lost hynan
  by_cases hy : y = NUM.negZero
  · exact hy ▸ (lost hxnan).symm
  rw [NUM.zero_add_eq hxnan hx, NUM.zero_add_eq hynan hy, NUM.add_comm]

/-! ### Doubling, and the difference of a value and itself -/

/-- There is one nearest value, as ties go to the even index. -/
theorem NearestEven.unique {val : Nat → ℝ} {v : ℝ} {r r' : Nat} (hval : StrictMono val) (h : NearestEven val v r)
    (h' : NearestEven val v r') : r = r' := by
  obtain ⟨a, hlo, hhi, hr⟩ := h
  obtain ⟨b, hlo', hhi', hr'⟩ := h'
  have hab : a < b + 1 := hval.lt_iff_lt.mp (hlo.trans_lt hhi')
  have hba : b < a + 1 := hval.lt_iff_lt.mp (hlo'.trans_lt hhi)
  obtain rfl : a = b := by omega
  have hexcl : ¬((2 * v < val a + val (a + 1) ∨ 2 * v = val a + val (a + 1) ∧ a % 2 = 0) ∧
      (val a + val (a + 1) < 2 * v ∨ 2 * v = val a + val (a + 1) ∧ a % 2 = 1)) := by
    rintro ⟨hlow | ⟨htie, heven⟩, hhigh | ⟨htie', hodd⟩⟩
    · exact hlow.asymm hhigh
    · exact hlow.ne htie'
    · exact hhigh.ne' htie
    · omega
  rcases hr with ⟨hr, hdown⟩ | ⟨hr, hup⟩
  · exact hr.trans (hr'.resolve_right fun h => hexcl ⟨hdown, h.2⟩).1.symm
  · exact hr.trans (hr'.resolve_left fun h => hexcl ⟨h.2, hup⟩).1.symm

theorem NUM.round_of_ne_zero (neg : Bool) {m : Nat} {e : Int} (hm : m ≠ 0) :
    NUM.round neg m e =
      if 0x7FF0000000000000 ≤ roundedMagnitude m e then NUM.infOf neg else NUM.signed neg (roundedMagnitude m e) :=
  if_neg hm

/-- Rounding depends on the sign and the value to be rounded only, not on how it is written. -/
theorem NUM.round_congr {m m' : Nat} {e e' : Int} (neg : Bool) (h : (m : ℝ) * 2 ^ e = m' * 2 ^ e') :
    NUM.round neg m e = NUM.round neg m' e' := by
  have hpow : ∀ k : Int, (2 : ℝ) ^ k ≠ 0 := fun k => zpow_ne_zero _ two_ne_zero
  by_cases hm : m = 0
  · have hm' : m' = 0 := by simpa [hm, hpow] using h.symm
    rw [hm, hm', NUM.round_zero, NUM.round_zero]
  have hm' : m' ≠ 0 := by
    rintro rfl
    simp [hm, hpow] at h
  have hmag : roundedMagnitude m e = roundedMagnitude m' e' :=
    (roundedMagnitude_nearestEven hm (.inl rfl)).unique patternUnits_real_strictMono
      (roundedMagnitude_nearestEven hm' (.inl h))
  rw [NUM.round_of_ne_zero neg hm, NUM.round_of_ne_zero neg hm', hmag]

theorem unitsOf_self (neg : Bool) (m : Nat) (e : Int) : unitsOf neg m e e = if neg then -(m : Int) else m := by
  simp [unitsOf]

/-- A count in its own unit, added to itself, keeps its sign and has twice the magnitude. -/
theorem unitsOf_add_self (neg : Bool) {m : Nat} (e : Int) (hm : m ≠ 0) :
    unitsOf neg m e e + unitsOf neg m e e ≠ 0 ∧ decide (unitsOf neg m e e + unitsOf neg m e e < 0) = neg ∧
      (unitsOf neg m e e + unitsOf neg m e e).natAbs = 2 * m := by
  rw [unitsOf_self]
  cases neg <;> simp only [Bool.false_eq_true, if_true, if_false, decide_eq_true_eq, decide_eq_false_iff_not] <;> omega

/-- `x + x` and `2 * x` are the same NUM, for infinities and zeros too; of NaNs both deliver the one of the
operations. -/
theorem NUM.add_self (x : NUM) : x.add x = NUM.two.mul x := by
  have htwo : NUM.two.unpack = .fin false (2 ^ 52) (-51) := by decide
  simp only [NUM.add, NUM.mul, htwo]
  cases x.unpack with
  | nan => rfl
  | inf a => cases a <;> rfl
  | fin a m e =>
    simp only [min_self, Bool.and_self]
    have hvalue : ((2 * m : ℕ) : ℝ) * 2 ^ e = (2 ^ 52 * m : ℕ) * 2 ^ (-51 + e) := by
      rw [zpow_add₀ two_ne_zero]
      push_cast
      norm_num
      ring
    rw [← NUM.round_congr _ hvalue, Bool.false_bne]
    by_cases hm : m = 0
    · simp [hm, unitsOf_self]
    · obtain ⟨hne, hsign, hmag⟩ := unitsOf_add_self a e hm
      rw [if_neg hne, hsign, hmag]

/-- The difference of a value and itself is not above 0: it is a zero, or the NaN of two infinities or of a NaN. -/
theorem NUM.zero_lt_sub_self (x : NUM) : NUM.zero.lt (x.sub x) = false := by
  cases hnan : x.isNaN
  case true =>
    rw [NUM.sub, NUM.add_of_isNaN_left hnan]
    exact NUM.lt_of_isNaN_right _ NUM.isNaN_nan
  cases hfin : x.isFinite
  case false =>
    have hsub : x.sub x = NUM.nan := by
      rw [NUM.eq_infOf hnan hfin]
      cases x.negative <;> rfl
    rw [hsub]
    exact NUM.lt_of_isNaN_right _ NUM.isNaN_nan
  case true =>
    have hzero : (x.toRat - x.toRat : ℝ) = (NUM.zeroOf false).toRat := by
      rw [sub_self, NUM.toRat_zeroOf, Rat.cast_zero]
    have hnear := NUM.sub_isNearest hfin hfin (by rw [hzero]; exact NUM.inRange_toRat (by decide))
    have hval := hnear.toRat_eq (z := NUM.zeroOf false) (by decide) hzero.symm
    rw [Bool.eq_false_iff, Ne, (NUM.zero_compare_iff hnear.1).2, hval, NUM.toRat_zeroOf]
    exact lt_irrefl 0

/-! ### Minimum -/

/-- The minimum of two values that are not NaN has the smaller of their orders. -/
theorem NUM.order_min {x y : NUM} (hx : x.isNaN = false) (hy : y.isNaN = false) :
    (x.min y).isNaN = false ∧ (x.min y).order = Min.min x.order y.order := by
  have hlt := NUM.lt_iff (x := y) (y := x)
  rw [NUM.min]
  split
  next h => exact ⟨hy, (min_eq_right (hlt.mp h).2.2.le).symm⟩
  next h => exact ⟨hx, (min_eq_left (Int.not_lt.mp fun hyx => h (hlt.mpr ⟨hy, hx, hyx⟩))).symm⟩

end Sys2Proof
end

section
/-! PROOF of O36. Tap classification (43_demodulator.md R260). -/

namespace Sys2Proof.Machine

theorem Taps.isNaN_tap {t : Taps} (h0 : t.t0.isNaN = false) (h1 : t.t1.isNaN = false) (h2 : t.t2.isNaN = false)
    (k : Nat) : (t.tap k).isNaN = false := by
  unfold Taps.tap
  split
  · exact h0
  · exact h1
  · exact h2

/-- The index of the minimum, by the orders of the taps: each index is asked for after the higher ones. -/
theorem minIndex_cases {t : Taps} (h0 : t.t0.isNaN = false) (h1 : t.t1.isNaN = false) (h2 : t.t2.isNaN = false) :
    minIndex t = 2 ∧ t.t2.order ≤ t.t0.order ∧ t.t2.order ≤ t.t1.order ∨
      minIndex t = 1 ∧ t.t1.order ≤ t.t0.order ∧ t.t1.order < t.t2.order ∨
      minIndex t = 0 ∧ t.t0.order < t.t1.order ∧ t.t0.order < t.t2.order := by
  obtain ⟨hnan01, hmin01⟩ := NUM.order_min h0 h1
  obtain ⟨hnan, hmin⟩ := NUM.order_min hnan01 h2
  simp only [minIndex, NUM.eqv_iff, h1, h2, hnan, hmin, hmin01, true_and]
  split
  next h => exact .inl ⟨rfl, by omega, by omega⟩
  next h =>
    split
    next h' => exact .inr (.inl ⟨rfl, by omega, by omega⟩)
    next h' => exact .inr (.inr ⟨rfl, by omega, by omega⟩)

/-- No tap is below the one of `minIndex`, and none of a higher index is as low. -/
theorem minIndex_lowest {t : Taps} (h0 : t.t0.isNaN = false) (h1 : t.t1.isNaN = false) (h2 : t.t2.isNaN = false) :
    minIndex t < 3 ∧ ∀ n < 3, (t.tap (minIndex t)).order ≤ (t.tap n).order ∧
      (minIndex t < n → (t.tap (minIndex t)).order < (t.tap n).order) := by
  rcases minIndex_cases h0 h1 h2 with ⟨hm, hlow, hlow'⟩ | ⟨hm, hlow, hlow'⟩ | ⟨hm, hlow, hlow'⟩
  all_goals
    rw [hm]
    refine ⟨by norm_num, fun n hn => ?_⟩
    interval_cases n <;> simp only [Taps.tap] <;> omega

/-- Settles O36: the comparisons are those of the orders, by which `minIndex` is the highest index of the lowest tap. -/
theorem classifyPicksHighestMinimum : Obligations.ClassifyPicksHighestMinimum := by
  intro t h0 h1 h2
  have hnan := Taps.isNaN_tap h0 h1 h2
  obtain ⟨hm, hlowest⟩ := minIndex_lowest h0 h1 h2
  refine ⟨hm, rfl, rfl, rfl, fun n hn => ?_, fun n hn hlt => ?_, fun h => ?_, fun h => ?_, fun h => ?_⟩
  · exact NUM.le_iff.mpr ⟨hnan _, hnan _, (hlowest n hn).1⟩
  · exact NUM.lt_iff.mpr ⟨hnan _, hnan _, (hlowest n hn).2 hlt⟩
  all_goals exact congrArg sectorOffset h

end Sys2Proof.Machine
end

section
/-! PROOF LAYER for 43_demodulator.md R261. One pixel of one call: what it adds when its signal is above 0, and that it
adds nothing otherwise. -/

namespace Sys2Proof.Machine

/-- The three terms that one call adds for a pixel with a signal above 0. -/
def demodTerms (t : Taps) (n : NUM) : Accum :=
  let sn := (signalOf (classify t)).div n
  let bn := ((classify t).c.max NUM.eps).div n
  ⟨sn, bn, sn.div (NUM.two.mul bn).sqrt⟩

/-- Accumulators with one term added to each. -/
def Accum.plus (acc terms : Accum) : Accum :=
  ⟨acc.sig.add terms.sig, acc.bg.add terms.bg, acc.snr.add terms.snr⟩

variable {t : Taps}

theorem demodPixel_of_signal (h : NUM.zero.lt (signalOf (classify t)) = true) (acc : Accum) (n : NUM) :
    demodPixel acc t n = acc.plus (demodTerms t n) :=
  if_pos h

theorem demodPixel_of_no_signal (h : NUM.zero.lt (signalOf (classify t)) = false) (acc : Accum) (n : NUM) :
    demodPixel acc t n = acc :=
  if_neg (Bool.eq_false_iff.mp h)

theorem phaseOf_of_no_signal (h : NUM.zero.lt (signalOf (classify t)) = false) : phaseOf t = NUM.zero :=
  if_neg (Bool.eq_false_iff.mp h)

end Sys2Proof.Machine
end

section
/-! PROOF of O37. Equal taps (43_demodulator.md R264). -/

namespace Sys2Proof.Machine

theorem Taps.tap_same (x : NUM) (k : Nat) : Taps.tap ⟨x, x, x⟩ k = x := by
  unfold Taps.tap
  split <;> rfl

/-- Whichever tap is the minimum, the signal of equal taps is `(x + x) - 2 * x`, which is not above 0. -/
theorem signalOf_same (x : NUM) : NUM.zero.lt (signalOf (classify ⟨x, x, x⟩)) = false := by
  have hsignal : signalOf (classify ⟨x, x, x⟩) = (x.add x).sub (NUM.two.mul x) := by
    simp only [signalOf, classify, Taps.tap_same]
  rw [hsignal, NUM.add_self]
  exact NUM.zero_lt_sub_self _

/-- Settles O37. -/
theorem equalTapsAccumulateNothing : Obligations.EqualTapsAccumulateNothing := fun x n acc =>
  ⟨phaseOf_of_no_signal (signalOf_same x), demodPixel_of_no_signal (signalOf_same x) acc n⟩

end Sys2Proof.Machine
end

section
/-! PROOF of O38. The order of the two calls (43_demodulator.md R263). -/

namespace Sys2Proof.Machine

theorem Accum.zero_plus_plus_comm (x y : Accum) : (Accum.zero.plus x).plus y = (Accum.zero.plus y).plus x := by
  simp only [Accum.plus, Accum.zero, NUM.zero_add_add_comm x.sig, NUM.zero_add_add_comm x.bg,
    NUM.zero_add_add_comm x.snr]

/-- Settles O38: the orders differ only when both triples have a signal, and then each accumulator has two terms. -/
theorem demodulationOrderIrrelevant : Obligations.DemodulationOrderIrrelevant := by
  intro t0 t1 n
  cases h0 : NUM.zero.lt (signalOf (classify t0))
  case false => rw [demodPixel_of_no_signal h0, demodPixel_of_no_signal h0]
  cases h1 : NUM.zero.lt (signalOf (classify t1))
  case false => rw [demodPixel_of_no_signal h1, demodPixel_of_no_signal h1]
  simp only [demodPixel_of_signal h0, demodPixel_of_signal h1]
  exact Accum.zero_plus_plus_comm _ _

end Sys2Proof.Machine
end

section
/-! PROOF of O39. When the smoother is skipped the phases stay (44_smoother.md R284). -/

namespace Sys2Proof

/-- A count and the count of the opposite sign cancel. -/
theorem unitsOf_add_not (neg : Bool) (m : Nat) (e : Int) : unitsOf neg m e e + unitsOf (!neg) m e e = 0 := by
  rw [unitsOf_self, unitsOf_self]
  cases neg <;> simp

/-- A finite value less itself is +0.0, and an infinity or a NaN less itself is a NaN. -/
theorem NUM.sub_self_eq (x : NUM) : x.sub x = if x.isFinite then NUM.zero else NUM.nan := by
  cases hfin : x.isFinite
  case true =>
    obtain ⟨hmag, hneg⟩ := x.neg_bits
    rw [NUM.sub, NUM.add, NUM.unpack_eq_of_isFinite hfin, NUM.unpack_eq_of_isFinite (NUM.toRat_neg hfin).1, hmag, hneg]
    simp only [min_self, unitsOf_add_not, if_true, Bool.and_not_self]
    rfl
  case false =>
    cases hnan : x.isNaN
    case true => exact NUM.add_of_isNaN_left hnan _
    case false =>
      rw [NUM.eq_infOf hnan hfin]
      cases x.negative <;> rfl

theorem NUM.lt_of_isNaN_left {x : NUM} (h : x.isNaN = true) (y : NUM) : x.lt y = false := by
  simp [NUM.lt, h]

/-- Maps built from functions that agree inside the frame are the same map. -/
theorem Grid.build_congr {α : Type} {h w : Nat} {f g : Nat → Nat → α}
    (hfg : ∀ r c, r < h → c < w → f r c = g r c) : Grid.build h w f = Grid.build h w g :=
  List.map_congr_left fun r hr => List.map_congr_left fun c hc =>
    hfg r c (List.mem_range.mp hr) (List.mem_range.mp hc)

namespace Machine

/-- A phase is not corrected against itself: its difference, +0.0 or a NaN, is not beyond a half either way. -/
theorem correctPhase_self (x : NUM) : correctPhase x x = x := by
  have hwithin : NUM.half.lt (x.sub x) = false ∧ (x.sub x).lt NUM.negHalf = false := by
    rw [NUM.sub_self_eq]
    cases x.isFinite
    case true => decide
    case false => exact ⟨NUM.lt_of_isNaN_right _ NUM.isNaN_nan, NUM.lt_of_isNaN_left NUM.isNaN_nan _⟩
  simp [correctPhase, hwithin]

theorem correctedMap_phaseMap_self (x : Grid Taps) (h w : Nat) :
    correctedMap (phaseMap x h w) (phaseMap x h w) h w = phaseMap x h w :=
  Grid.build_congr fun _ _ hr hc => (correctPhase_self _).trans (phaseMap_num x hr hc)

theorem smooth_of_long_kernel {kernel : List NUM} {h w : Nat} (hskip : h < kernel.length ∨ w < kernel.length)
    (x : Grid Taps) : smooth kernel x h w = x :=
  if_pos hskip

/-- Settles O39: the smoother returns the frame itself, so each phase meets itself. -/
theorem skippedSmootherChangesNoPhase : Obligations.SkippedSmootherChangesNoPhase := by
  intro kernel x h w hskip ph sp
  have hsp : sp = ph := congrArg (phaseMap · h w) (smooth_of_long_kernel hskip x)
  rw [hsp]
  refine ⟨rfl, correctedMap_phaseMap_self x h w, fun r c hfin => ?_⟩
  rw [NUM.sub_self_eq, if_pos hfin]
  rfl

end Machine
end Sys2Proof
end

section
/-! PROOF of O40. The cycle index is the Euclidean remainder modulo N0 (45_unwrapper.md R301 to R303). -/

namespace Sys2Proof.Machine

/-- The sign mask as an integer (45_unwrapper.md R302). -/
theorem signMask_cast (sp0 sp1 : NUM) : (signMask sp0 sp1 : Int) = if sp1.lt sp0 then 1 else 0 := by
  unfold signMask
  split <;> rfl

/-- The natural number keeps the remainder whole, which is never negative when N0 is not 0. -/
theorem cycleIndex_cast {fd : FrameDesc} (hn0 : 1 ≤ fd.n0.toNat) (sp0 sp1 : NUM) :
    (cycleIndex fd sp0 sp1 : Int) = (rawCycle fd sp0 sp1 + fd.n0.toNat * signMask sp0 sp1) % fd.n0.toNat :=
  Int.toNat_of_nonneg (Int.emod_nonneg _ (by omega))

theorem cycleIndex_lt_n0 {fd : FrameDesc} (hn0 : 1 ≤ fd.n0.toNat) (sp0 sp1 : NUM) :
    cycleIndex fd sp0 sp1 < fd.n0.toNat := by
  have hlt := Int.emod_lt_of_pos (rawCycle fd sp0 sp1 + fd.n0.toNat * signMask sp0 sp1)
    (show (0 : Int) < fd.n0.toNat by omega)
  rwa [← cycleIndex_cast hn0, Int.ofNat_lt] at hlt

/-- Settles O40: the multiple of N0 between the two is the Euclidean quotient. -/
theorem cycleIndexIsWrapped : Obligations.CycleIndexIsWrapped := by
  intro fd sp0 sp1 hn0 m s
  refine ⟨cycleIndex_lt_n0 hn0 sp0 sp1, (m + fd.n0.toNat * s) / fd.n0.toNat, ?_⟩
  have hmask : s = signMask sp0 sp1 := (signMask_cast sp0 sp1).symm
  have hcycle : (cycleIndex fd sp0 sp1 : Int) = (m + fd.n0.toNat * s) % fd.n0.toNat := by
    rw [hmask]
    exact cycleIndex_cast hn0 sp0 sp1
  rw [hcycle]
  exact (Int.ediv_mul_add_emod _ _).symm

end Sys2Proof.Machine
end

section
/-! PROOF LAYER for 46_artifact_filters.md R321. The largest and the smallest of values with a clear sign bit, as the
converted integers of a cycle map are whatever their size: the order of a window's pixels does not matter. -/

namespace Sys2Proof

/-- Neither a NaN nor a pattern with the sign bit set: a value that its order determines, as -0.0 is shut out. -/
def NUM.IsUnsigned (x : NUM) : Prop := x.isNaN = false ∧ x.negative = false

theorem NUM.isUnsigned_signed {n : Nat} (hn : n ≤ 0x7FF0000000000000) : (NUM.signed false n).IsUnsigned := by
  obtain ⟨hmag, hneg, -⟩ := NUM.signed_bits false (n := n) (by omega)
  exact ⟨decide_eq_false (Nat.not_lt.mpr (hmag.trans_le hn)), hneg⟩

/-- A conversion gives no NaN and no sign, also where it rounds or overflows (00_scope.md R15). -/
theorem NUM.isUnsigned_ofNat (n : Nat) : (NUM.ofNat n).IsUnsigned := by
  by_cases hn : n = 0
  · rw [hn]
    exact NUM.isUnsigned_signed (Nat.zero_le _)
  rw [NUM.ofNat, NUM.round_of_ne_zero false hn]
  split
  · exact NUM.isUnsigned_signed le_rfl
  · exact NUM.isUnsigned_signed (by omega)

theorem NUM.IsUnsigned.eq_of_order_eq {x y : NUM} (hx : x.IsUnsigned) (hy : y.IsUnsigned) (h : x.order = y.order) :
    x = y := by
  rw [NUM.order_eq, NUM.order_eq, hx.2, hy.2] at h
  exact NUM.eq_of_sign_magnitude (hx.2.trans hy.2.symm) (Int.ofNat_inj.mp h)

theorem NUM.IsUnsigned.min {x y : NUM} (hx : x.IsUnsigned) (hy : y.IsUnsigned) : (x.min y).IsUnsigned := by
  unfold NUM.min
  split
  · exact hy
  · exact hx

theorem NUM.IsUnsigned.max {x y : NUM} (hx : x.IsUnsigned) (hy : y.IsUnsigned) : (x.max y).IsUnsigned := by
  unfold NUM.max
  split
  · exact hy
  · exact hx

/-- The maximum of two values that are not NaN has the larger of their orders. -/
theorem NUM.order_max {x y : NUM} (hx : x.isNaN = false) (hy : y.isNaN = false) :
    (x.max y).order = Max.max x.order y.order := by
  have hlt := NUM.lt_iff (x := x) (y := y)
  rw [NUM.max]
  split
  next h => exact (max_eq_right (hlt.mp h).2.2.le).symm
  next h => exact (max_eq_left (Int.not_lt.mp fun hxy => h (hlt.mpr ⟨hx, hy, hxy⟩))).symm

namespace Machine

/-- The smallest of a list is its greatest lower bound. -/
theorem minFrom_spec {x : NUM} {xs : List NUM} (h : ∀ y ∈ x :: xs, y.IsUnsigned) :
    (minFrom x xs).IsUnsigned ∧ ∀ k, k ≤ (minFrom x xs).order ↔ ∀ y ∈ x :: xs, k ≤ y.order := by
  induction xs generalizing x with
  | nil => exact ⟨h x (by simp), by simp [minFrom]⟩
  | cons y ys ih =>
    simp only [List.forall_mem_cons] at h ih ⊢
    obtain ⟨hx, hy, hys⟩ := h
    obtain ⟨hunsigned, hbound⟩ := ih ⟨hx.min hy, hys⟩
    refine ⟨hunsigned, fun k => (hbound k).trans ?_⟩
    rw [(NUM.order_min hx.1 hy.1).2, le_min_iff, and_assoc]

/-- The largest of a list is its least upper bound. -/
theorem maxFrom_spec {x : NUM} {xs : List NUM} (h : ∀ y ∈ x :: xs, y.IsUnsigned) :
    (maxFrom x xs).IsUnsigned ∧ ∀ k, (maxFrom x xs).order ≤ k ↔ ∀ y ∈ x :: xs, y.order ≤ k := by
  induction xs generalizing x with
  | nil => exact ⟨h x (by simp), by simp [maxFrom]⟩
  | cons y ys ih =>
    simp only [List.forall_mem_cons] at h ih ⊢
    obtain ⟨hx, hy, hys⟩ := h
    obtain ⟨hunsigned, hbound⟩ := ih ⟨hx.max hy, hys⟩
    refine ⟨hunsigned, fun k => (hbound k).trans ?_⟩
    rw [NUM.order_max hx.1 hy.1, max_le_iff, and_assoc]

/-- Whether the spread exceeds the tolerance depends only on which values the window holds. -/
theorem spreadExceeds_congr (tol : NUM) {xs ys : List NUM} (hxs : ∀ x ∈ xs, x.IsUnsigned)
    (hmem : ∀ x, x ∈ xs ↔ x ∈ ys) : spreadExceeds tol xs = spreadExceeds tol ys := by
  have hys : ∀ y ∈ ys, y.IsUnsigned := fun y hy => hxs y ((hmem y).mpr hy)
  match xs, ys with
  | [], [] => rfl
  | [], y :: ys => simpa using hmem y
  | x :: xs, [] => simpa using hmem x
  | x :: xs, y :: ys =>
    obtain ⟨hminx, hlowx⟩ := minFrom_spec hxs
    obtain ⟨hminy, hlowy⟩ := minFrom_spec hys
    obtain ⟨hmaxx, hhighx⟩ := maxFrom_spec hxs
    obtain ⟨hmaxy, hhighy⟩ := maxFrom_spec hys
    have hmin : minFrom x xs = minFrom y ys := hminx.eq_of_order_eq hminy
      (eq_of_forall_le_iff fun k => by simp only [hlowx, hlowy, hmem])
    have hmax : maxFrom x xs = maxFrom y ys := hmaxx.eq_of_order_eq hmaxy
      (eq_of_forall_ge_iff fun k => by simp only [hhighx, hhighy, hmem])
    rw [spreadExceeds, spreadExceeds, hmin, hmax]

end Machine
end Sys2Proof
end

section
/-! PROOF of O41. The ghost mask of an odd window (46_artifact_filters.md R325). -/

namespace Sys2Proof.Machine

/-- An odd window reaches as far after its pixel as before it, so turning the frame around turns its windows. -/
theorem flip_mem_windowPixels {n h w r c i j : Nat} (hodd : n % 2 = 1) (hr : r < h) (hc : c < w) (hi : i < h)
    (hj : j < w) :
    (h - 1 - i, w - 1 - j) ∈ windowPixels n h w (h - 1 - r) (w - 1 - c) ↔ (i, j) ∈ windowPixels n h w r c := by
  simp only [mem_windowPixels]
  omega

/-- The reverse scan reads in an odd window the pixels the forward scan reads, in another order. -/
theorem ghostReverse_of_odd {n h w : Nat} (hodd : n % 2 = 1) (tol : NUM) {q : Grid NUM}
    (hq : ∀ i j, i < h → j < w → (q.num i j).IsUnsigned) : ghostReverse n tol q h w = ghostScan n tol q h w := by
  refine Grid.build_congr fun r c hr hc => ?_
  have flipped : ∀ {i j}, i < h → j < w → (flipGrid NUM.zero q h w).num i j = q.num (h - 1 - i) (w - 1 - j) :=
    fun hi hj => Grid.num_build _ hi hj
  have back : ∀ {m x : Nat}, x < m → m - 1 - (m - 1 - x) = x := by omega
  rw [ghostScan, Grid.read_build _ _ (by omega) (by omega)]
  refine (spreadExceeds_congr tol ?_ fun x => ?_).symm
  · simp only [List.forall_mem_map]
    intro p hp
    obtain ⟨⟨hi, hj⟩, -⟩ := mem_windowPixels.mp hp
    exact hq _ _ hi hj
  simp only [List.mem_map]
  constructor
  · rintro ⟨⟨i, j⟩, hp, rfl⟩
    obtain ⟨⟨hi, hj⟩, -⟩ := mem_windowPixels.mp hp
    refine ⟨(h - 1 - i, w - 1 - j), (flip_mem_windowPixels hodd hr hc hi hj).mpr hp, ?_⟩
    rw [flipped (by omega) (by omega), back hi, back hj]
  · rintro ⟨⟨i, j⟩, hp, rfl⟩
    obtain ⟨⟨hi, hj⟩, -⟩ := mem_windowPixels.mp hp
    refine ⟨(h - 1 - i, w - 1 - j), ?_, (flipped hi hj).symm⟩
    rwa [← flip_mem_windowPixels hodd hr hc (by omega) (by omega), back hi, back hj]

/-- Settles O41: for an odd window the two scans are the same mask. -/
theorem oddGhostWindowIsSymmetric : Obligations.OddGhostWindowIsSymmetric := by
  intro n tol cyc h w hodd
  have hq : ∀ i j, i < h → j < w →
      ((Grid.build h w fun r c => NUM.ofNat (Grid.read 0 cyc r c)).num i j).IsUnsigned := fun i j hi hj => by
    rw [Grid.num_build _ hi hj]
    exact NUM.isUnsigned_ofNat _
  rw [ghostMask, ghostReverse_of_odd hodd tol hq]
  refine Grid.build_congr fun r c hr hc => ?_
  rw [Bool.and_self, ghostScan, Grid.read_build _ _ hr hc]

end Sys2Proof.Machine
end

section
/-! PROOF of O42. The nearest-neighbour filter (46_artifact_filters.md R330 to R336). -/

namespace Sys2Proof.Machine

theorem nnRow_of_getElem? {p : Params} {level : Nat} {row : Nat × Nat} (h : p.nnTable[level - 1]? = some row) :
    nnRow p level = row := by
  rw [nnRow, List.getD_eq_getElem?_getD, h, Option.getD_some]

/-- Settles O42: the filter counts `close`, a subset of `neighbours`. -/
theorem nnFilterZeroesLonelyPixels : Obligations.NnFilterZeroesLonelyPixels := by
  intro p level rm h w
  refine ⟨fun hlevel => if_pos hlevel, ?_⟩
  intro r c wn need hlevel hrow hr hc lo neighbours rp close
  have hclose : close = closeNeighbours p rm.num wn h w r c := Finset.filter_filter _ _ _
  have hcount : closeCount p wn rm h w r c = close.card := by
    rw [hclose]
    exact closeCount_of_holds (fun _ _ _ _ => rfl) p wn hr hc
  have hpixel : (nnFilter p level rm h w).num r c = if close.card < need then ⟨0⟩ else rp := by
    rw [nnFilter_num p level rm hr hc, nnRow_of_getElem? hrow, hcount]
    exact if_congr (and_iff_right hlevel) rfl rfl
  have hsubset : close.card ≤ neighbours.card := Finset.card_filter_le _ _
  rw [hpixel]
  exact ⟨rfl, fun hfew => if_pos (hsubset.trans_lt hfew), fun hnone => if_neg (by omega)⟩

end Sys2Proof.Machine
end

section
/-! PROOF of O54. Only EMIT changes what a virtual sensor has put out (10_state.md R37, R48, 70_reset_and_hazards.md
R436). -/

namespace Sys2Proof.Machine

/-- What a virtual sensor has put out (10_state.md R37, R48): its maps, their descriptor, HAS_OUTPUT and FRAME_COUNT. -/
structure Outputs where
  range : Memory (BitVec 16)
  signal : Memory (BitVec 16)
  background : Memory (BitVec 16)
  snr : Memory (BitVec 16)
  desc : Descriptor
  hasOutput : Bool
  frameCount : BitVec 32

def Context.outputs (c : Context) : Outputs :=
  ⟨c.outRange, c.outSignal, c.outBackground, c.outSnr, c.desc, c.hasOutput, c.frameCount⟩

theorem Context.outputs_eq_iff {c c' : Context} :
    c'.outputs = c.outputs ↔
      c'.outRange = c.outRange ∧ c'.outSignal = c.outSignal ∧ c'.outBackground = c.outBackground ∧
      c'.outSnr = c.outSnr ∧ c'.desc = c.desc ∧ c'.hasOutput = c.hasOutput ∧ c'.frameCount = c.frameCount := by
  simp only [Context.outputs, Outputs.mk.injEq]

/-- A command answered EMIT and left `c'` of a context that had counted `count` frames (40_commands.md R160). -/
structure EmitsFrame (count : BitVec 32) (c' : Context) (result : Result) (reason : Reason) : Prop where
  result : result = .emit
  reason : reason = .none
  hasOutput : c'.hasOutput = true
  frameCount : c'.frameCount = count + 1
  frameOpen : c'.frameOpen = false

/-- Recording the result touches nothing of the frame (40_commands.md R155). -/
theorem EmitsFrame.record {count : BitVec 32} {c : Context} {result : Result} {reason : Reason}
    (h : EmitsFrame count c result reason) (result' : Result) (reason' : Reason) :
    EmitsFrame count (c.record result' reason') result reason :=
  ⟨h.result, h.reason, h.hasOutput, h.frameCount, h.frameOpen⟩

theorem JoinsFrame.outputs {c c₁ : Context} {h : RoiHeader} (hj : JoinsFrame c h c₁) : c₁.outputs = c.outputs := by
  cases hj <;> rfl

theorem Accumulates.outputs {p : Params} {ctrl : BitVec 32} {c c₁ : Context} {e : RoiView}
    (ha : Accumulates p ctrl c e c₁) : c₁.outputs = c.outputs := by
  cases ha with
  | grid => rw [gridAccumulate_frame]; rfl
  | stripe _ ha =>
    rcases stripeAccumulate_cases p ctrl c e with ⟨-, h⟩ | ⟨-, _, _, _, h⟩ <;> rw [h] at ha <;> cases ha
    rfl

/-- The conditioner changes at most the delay line. -/
theorem outputs_of_condition_emitted {p : Params} {ctrl : BitVec 32} {c c₁ : Context} {roi out : RoiRecord}
    (h : condition p ctrl c roi = .emitted c₁ out) : c₁.outputs = c.outputs := by
  rw [condition_emitted_frame h]
  rfl

theorem framePipeline_emitsFrame (p : Params) (ctrl : BitVec 32) (thr : NUM) (c : Context) :
    EmitsFrame c.frameCount (framePipeline p ctrl thr c) .emit .none :=
  ⟨rfl, rfl, rfl, rfl, rfl⟩

theorem FrameEffect.outputs {p : Params} {ctrl : BitVec 32} {thr : NUM} {c : Context} {e : RoiView} {o : RoiOutcome}
    (ho : FrameEffect p ctrl thr c e o) :
    o.ctx.outputs = c.outputs ∨ EmitsFrame c.frameCount o.ctx o.result o.reason := by
  cases ho with
  | skipped | mismatched => exact .inl rfl
  | overflowed hj => exact .inl hj.outputs
  | kept hj ha => exact .inl (ha.outputs.trans hj.outputs)
  | @emitted _ c₂ hj ha =>
    have hcount : c₂.frameCount = c.frameCount := congrArg Outputs.frameCount (ha.outputs.trans hj.outputs)
    exact .inr (hcount ▸ framePipeline_emitsFrame p ctrl thr c₂)

theorem RoiEffect.outputs {p : Params} {ctrl : BitVec 32} {thr : NUM} {c : Context} {o : RoiOutcome}
    (ho : RoiEffect p ctrl thr c o) :
    o.ctx.outputs = c.outputs ∨ EmitsFrame c.frameCount o.ctx o.result o.reason := by
  cases ho with
  | malformed | stored => exact .inl rfl
  | conditioned _ hc ho =>
    have hsame := outputs_of_condition_emitted hc
    have hcount : _ = c.frameCount := congrArg Outputs.frameCount hsame
    exact ho.outputs.imp (·.trans hsame) fun hemit => hcount ▸ hemit

theorem ContextEffect.outputs {i : Instr} {s : State} {v : Nat} {c : Context} {result : Result} {reason : Reason}
    (h : ContextEffect i s v c result reason) :
    c.outputs = (s.ctx v).outputs ∨ EmitsFrame (s.ctx v).frameCount c result reason := by
  cases h with
  | restarted | offsetWritten | limitWritten | maskWritten => exact .inl rfl
  | assembled _ ho =>
    exact ho.outputs.imp id (·.record _ _)

/-- Only an OK carries DATA (30_encoding.md R106). -/
theorem CommandEffect.data_eq_zero {i : Instr} {s t : State} {r : Response} (h : CommandEffect i s t)
    (hr : t.resp = some r) (hne : r.result ≠ .ok) : r.data = 0 := by
  cases h with
  | responded hlegal =>
    cases hr
    simp only [Response.legal, Bool.and_eq_true, Bool.or_eq_true, beq_iff_eq] at hlegal
    obtain ⟨-, hok | hzero⟩ := hlegal
    · exact absurd hok hne
    · exact hzero
  | cleared | ctrlWritten | thresholdWritten | contextLeft => cases hr; rfl

/-- Settles O54, by what a command can leave of a context: of the operations on one, the frame pipeline alone writes
what the sensor puts out. -/
theorem outputsChangeOnlyOnEmit : Obligations.OutputsChangeOnlyOnEmit := by
  intro i s t v c c' hexec hc hc' hreset
  have heff := exec_effect hexec
  rcases heff.context_cases hc hc' with ⟨f, rfl, -⟩ | ⟨r, hresp, ⟨rfl, -⟩ | ⟨haddr, hctx⟩⟩
  · exact absurd rfl (hreset f)
  · exact .inl (Context.outputs_eq_iff.mp rfl)
  · obtain rfl : s.ctx v = c := State.ctx_of_getElem? hc
    refine hctx.outputs.imp Context.outputs_eq_iff.mp fun hemit => ?_
    have hdata : r.data = 0 := heff.data_eq_zero hresp (by simp [hemit.result])
    have hr : r = ⟨.emit, .none, 0⟩ := by rw [← hemit.result, ← hemit.reason, ← hdata]
    exact ⟨hr ▸ hresp, haddr, hemit.hasOutput, hemit.frameCount, hemit.frameOpen⟩

end Sys2Proof.Machine
end

section
/-! PROOF of O6 and O8. Every command answers, and a rejected one does nothing else (60_exceptions.md R400, R401). -/

namespace Sys2Proof.Machine

theorem exec_completes (i : Instr) (s : State) : ∃ t, exec i s = .next t := by
  cases i <;> exact ⟨_, rfl⟩

theorem step_of_incomplete {s : State} (h : decode s.stream = .incomplete) : step s = .next s := by
  rw [step, h]

/-- Settles O6, by the three answers of the decoder. -/
theorem everyStepCompletes : Obligations.EveryStepCompletes := by
  refine ⟨fun s => ?_, fun s => step_of_incomplete⟩
  cases hdecode : decode s.stream with
  | incomplete => exact ⟨s, step_of_incomplete hdecode⟩
  | badOpcode rest => exact ⟨_, step_of_badOpcode hdecode⟩
  | instr i rest =>
    rw [stepRunsDecodedCommand s i rest hdecode]
    exact exec_completes i _

/-- A command that wrote a context did not reject. -/
theorem ContextEffect.result_ne_reject {i : Instr} {s : State} {v : Nat} {c : Context} {result : Result}
    {reason : Reason} (h : ContextEffect i s v c result reason) : result ≠ .reject := by
  cases h with
  | restarted | offsetWritten | limitWritten | maskWritten => nofun
  | assembled _ ho => exact ho.pair_legal.1

/-- A rejected command only responds. -/
theorem CommandEffect.eq_of_reject {i : Instr} {s t : State} {r : Response} (h : CommandEffect i s t)
    (hr : t.resp = some r) (hreject : r.result = .reject) : t = { s with resp := some r } := by
  cases h with
  | responded => cases hr; rfl
  | cleared | ctrlWritten | thresholdWritten => cases hr; cases hreject
  | contextLeft _ _ hctx => cases hr; exact absurd hreject hctx.result_ne_reject

/-- Settles O8. -/
theorem rejectChangesNoState : Obligations.RejectChangesNoState := by
  intro i s t r hexec hr hreject
  have heff := exec_effect hexec
  exact ⟨heff.data_eq_zero hr (by simp [hreject]), heff.eq_of_reject hr hreject⟩

end Sys2Proof.Machine
end

section
/-! PROOF of O22 and O23. What a FATAL and a SKIP leave of the context of their virtual sensor (60_exceptions.md R402,
R403). -/

namespace Sys2Proof.Machine

/-! ### FATAL -/

section
variable {p : Params} {ctrl : BitVec 32} {thr : NUM} {c : Context}

theorem completeStep_ne_fatal (c : Context) (h : RoiHeader) : (completeStep p ctrl thr c h).result ≠ .fatal := by
  rcases completeStep_cases p ctrl thr c h with ⟨-, heq⟩ | ⟨-, heq⟩ <;> rw [heq] <;> nofun

/-- Assembling a ROI is FATAL only when the stripe frame has no room. -/
theorem assembleStep_fatal {e : RoiView} (h : (assembleStep p ctrl thr c e).result = .fatal) :
    p.maxRows.val ≤ c.stripeCount ∧ assembleStep p ctrl thr c e = fatalOutcome c .stripeOverflow := by
  rcases assembleStep_cases p ctrl thr c e with ⟨-, heq⟩ | ⟨-, hnone, heq⟩ | ⟨c', -, -, heq⟩
  · exact absurd (heq ▸ h) (completeStep_ne_fatal _ _)
  · rcases stripeAccumulate_cases p ctrl c e with ⟨hfull, -⟩ | ⟨-, _, _, _, hsome⟩
    · exact ⟨hfull, heq⟩
    · exact absurd (hnone.symm.trans hsome) nofun
  · exact absurd (heq ▸ h) (completeStep_ne_fatal _ _)

/-- A FATAL of steps 5 to 8 has changed nothing before: a frame just opened holds no stripe, so it has room for one. -/
theorem frameStep_fatal {e : RoiView} (hrows : 1 ≤ p.maxRows.val) (h : (frameStep p ctrl thr c e).result = .fatal) :
    ∃ reason, frameStep p ctrl thr c e = fatalOutcome c reason := by
  rcases frameStep_cases p ctrl thr c e with ⟨-, heq⟩ | ⟨-, -, heq⟩ | ⟨-, -, -, heq⟩ | ⟨-, -, -, heq⟩
  · obtain ⟨hfull, -⟩ := assembleStep_fatal (heq ▸ h)
    rw [openFrame_stripeCount] at hfull
    omega
  · rw [heq] at h
    cases h
  · exact ⟨_, heq⟩
  · obtain ⟨-, hassemble⟩ := assembleStep_fatal (heq ▸ h)
    exact ⟨_, heq.trans hassemble⟩

/-- A validated ROI shows that the device has a row. -/
theorem RoiRecord.one_le_maxRows {roi : RoiRecord} (hroi : RoiRecord.legal p roi = true) : 1 ≤ p.maxRows.val := by
  obtain ⟨⟨hone, hmax⟩, -⟩ := geometryLegal_iff.mp (RoiRecord.header_legal hroi).geometry
  exact hone.trans hmax

/-- `fatal` empties the delay line, so what the conditioner did to it is not seen. -/
theorem fatal_of_condition_emitted {c₁ : Context} {roi out : RoiRecord} (h : condition p ctrl c roi = .emitted c₁ out)
    (reason : Reason) : c₁.fatal reason = c.fatal reason := by
  rw [condition_emitted_frame h]
  rfl

/-- A retake of another shape leaves the held ROI where it is (41_roi_conditioner.md R204). -/
theorem condition_badShape_ctx {c₁ : Context} {roi : RoiRecord} (h : condition p ctrl c roi = .badShape c₁) :
    c₁ = c := by
  rcases condition_cases p ctrl c roi with ⟨-, h'⟩ | ⟨-, -, h'⟩ | ⟨held, -, -, -, -, h'⟩ | ⟨held, -, -, -, -, h'⟩ <;>
    rw [h'] at h
  · cases h
  · cases h
  · rcases mergeRetake_cases p.satThresh c held roi with ⟨-, hm⟩ | ⟨-, hm⟩ <;> rw [hm] at h <;> cases h
    rfl
  · cases h

/-- Every FATAL of a validated ROI is the one effect of 60_exceptions.md R403. -/
theorem sequenceRoi_fatal {roi : RoiRecord} (hroi : RoiRecord.legal p roi = true)
    (h : (sequenceRoi p ctrl thr c roi).result = .fatal) :
    ∃ reason, sequenceRoi p ctrl thr c roi = fatalOutcome c reason := by
  cases hcond : condition p ctrl c roi with
  | stored c₁ =>
    rw [sequenceRoi_of_stored hcond] at h
    cases h
  | badShape c₁ =>
    obtain rfl := condition_badShape_ctx hcond
    exact ⟨_, sequenceRoi_of_badShape hcond⟩
  | emitted c₁ out =>
    rw [sequenceRoi_of_emitted hcond] at h ⊢
    obtain ⟨reason, heq⟩ := frameStep_fatal (RoiRecord.one_le_maxRows hroi) h
    exact ⟨reason, by rw [heq, fatalOutcome, fatal_of_condition_emitted hcond, fatalOutcome]⟩

end

/-- A ROI command answered FATAL: no virtual sensor could be attributed, or the one of the header took the effect, be it
that the record failed validation or that it failed later. -/
theorem roiState_fatal {f : CmdFields} {record : List Word} {s : State} {r : Response}
    (hr : (roiState f record s).resp = some r) (hfatal : r.result = .fatal) :
    ((record.length < 12 ∨ s.numVs ≤ (headerOf record).vsid.toNat) ∧ ∃ reason,
      roiState f record s = s.respond .fatal reason 0) ∨
    12 ≤ record.length ∧ (headerOf record).vsid.toNat < s.numVs ∧ ∃ reason,
      roiState f record s =
        s.finishRoi (headerOf record).vsid.toNat (fatalOutcome (s.ctx (headerOf record).vsid.toNat) reason) := by
  rcases roiState_cases f record s with h | ⟨reason, hval, h⟩ | ⟨v, reason, hval, h⟩ | ⟨v, roi, hval, h⟩
  · rw [h] at hr
    cases hr
    cases hfatal
  · exact .inl ⟨(validate_unattributed hval).imp (fun ⟨hlen, _⟩ => hlen) (fun ⟨_, hvs, _⟩ => hvs), reason, h⟩
  · obtain ⟨hlen, hv, rfl, -⟩ := validate_malformed hval
    exact .inr ⟨hlen, hv, reason, h⟩
  · obtain ⟨hlen, hv, rfl, -, -, hroi⟩ := validate_valid hval
    rw [h] at hr
    cases hr
    obtain ⟨reason, hseq⟩ := sequenceRoi_fatal hroi hfatal
    exact .inr ⟨hlen, hv, reason, hseq ▸ h⟩

/-- Settles O22. Of the invariant nothing is used: that the ROI itself is validated already shuts out a device without
rows, the one case in which a frame would be opened before the FATAL. -/
theorem fatalEffect : Obligations.FatalEffect := by
  intro f record s t r _ hexec hr hfatal
  cases hexec
  rcases roiState_fatal hr hfatal with ⟨hunattributed, reason, h⟩ | ⟨hlen, hv, reason, h⟩ <;> rw [h] at hr ⊢ <;>
    cases hr
  · exact .inl ⟨hunattributed, rfl⟩
  · exact .inr ⟨hlen, _, State.getElem?_of_lt hv, rfl⟩

/-! ### SKIP -/

/-- The reasons that go with SKIP (30_encoding.md R108). -/
theorem pairLegal_skip_iff {reason : Reason} :
    pairLegal .skip reason = true ↔
      reason = .hdrStored ∨ reason = .noFirstRoi ∨ reason = .completeWithoutFirst := by
  cases reason <;> decide

/-- A SKIP leaves the context as the conditioner left it. -/
theorem RoiEffect.skip_frame {p : Params} {ctrl : BitVec 32} {thr : NUM} {c : Context} {o : RoiOutcome}
    (ho : RoiEffect p ctrl thr c o) (hskip : o.result = .skip) :
    o.ctx = { c with hdrPrev := o.ctx.hdrPrev, hdrCorrected := o.ctx.hdrCorrected } := by
  cases ho with
  | malformed => cases hskip
  | stored => rfl
  | conditioned _ hc ho =>
    cases ho with
    | skipped => exact condition_emitted_frame hc
    | mismatched | overflowed | kept | emitted => cases hskip

/-- A ROI command answered SKIP was validated, and sequenced to that SKIP. -/
theorem roiState_skip {f : CmdFields} {record : List Word} {s : State} {r : Response}
    (hr : (roiState f record s).resp = some r) (hskip : r.result = .skip) :
    (headerOf record).vsid.toNat < s.numVs ∧ ∃ o,
      RoiEffect s.params s.ctrl s.snrThreshold (s.ctx (headerOf record).vsid.toNat) o ∧ o.result = .skip ∧
      roiState f record s = s.finishRoi (headerOf record).vsid.toNat o := by
  rcases roiState_cases f record s with h | ⟨_, -, h⟩ | ⟨_, _, -, h⟩ | ⟨v, roi, hval, h⟩ <;> rw [h] at hr <;> cases hr
  · cases hskip
  · cases hskip
  · cases hskip
  · obtain ⟨-, hv, rfl, -, -, hroi⟩ := validate_valid hval
    exact ⟨hv, _, sequenceRoi_effect s.ctrl s.snrThreshold _ hroi, hskip, h⟩

/-- Settles O23. -/
theorem skipEffect : Obligations.SkipEffect := by
  intro f record s t r hexec hr hskip
  cases hexec
  obtain ⟨hv, o, heff, hresult, h⟩ := roiState_skip hr hskip
  obtain ⟨-, hpair⟩ := heff.pair_legal
  rw [h] at hr ⊢
  cases hr
  refine ⟨pairLegal_skip_iff.mp (hresult ▸ hpair), _, o.ctx.hdrPrev, o.ctx.hdrCorrected, State.getElem?_of_lt hv, ?_⟩
  rw [State.finishRoi, hresult, heff.skip_frame hresult]
  rfl

end Sys2Proof.Machine
end

section
/-! PROOF of O57. A register read right after an accepted write (70_reset_and_hazards.md R438). -/

namespace Sys2Proof.Machine

/-- What WRREG may write is what RDREG answers: a legal CTRL fits the 32-bit register (10_state.md R32). -/
theorem State.readReg_writeReg_same {s : State} {r : RegId} {v : Nat} {x : BitVec 64} (hro : r.isReadOnly = false)
    (hx : r.legalValue x = true) (hv : r.isGlobal = false → v < s.numVs) : (s.writeReg r v x).readReg r v = x := by
  rcases writeReg_cases s r v x hro with ⟨rfl, h⟩ | ⟨rfl, h⟩ | ⟨rfl, h⟩ | ⟨rfl, h⟩ <;> rw [h]
  · exact setWidth_setWidth_of_ctrlLegal hx
  · rfl
  · rw [State.readReg, State.ctx_setCtx_same (hv rfl)]
  · rw [State.readReg, State.ctx_setCtx_same (hv rfl)]

/-- No register shows the last response. -/
theorem State.readReg_answer (s : State) (data : BitVec 64) (r : RegId) (v : Nat) :
    (s.answer data).readReg r v = s.readReg r v := by
  cases r <;> rfl

/-- Settles O57: the read passes the checks the write passed. -/
theorem registerReadSeesWrite : Obligations.RegisterReadSeesWrite := by
  intro f s t hexec hresp
  cases hexec
  have hdevice := (wrregState_effect f s).sameDevice
  rcases wrregState_cases f s with ⟨reason, h⟩ | ⟨r, hr, hacc, hro, hx, hsel, h⟩
  · rw [h] at hresp
    cases hresp
  · have hacc' : regAccessError (wrregState f s) { f with arg := 0 } r = none :=
      (regAccessError_sameDevice hdevice f r).trans hacc
    obtain ⟨-, hv⟩ := (regAccessError_none s f r).mp hacc
    have hread : (wrregState f s).readReg r (vsOf f) = f.arg := by
      rw [h, State.readReg_answer, State.readReg_writeReg_same hro hx hv]
    calc exec (.rdreg { f with arg := 0 }) (wrregState f s)
        = answers (wrregState f s) ((wrregState f s).readReg r (vsOf f)) :=
          exec_rdreg_of_access (f := { f with arg := 0 }) hsel rfl (regOfNumber_eq_some_iff.mp hr) hacc'
      _ = answers (wrregState f s) f.arg := by rw [hread]

end Sys2Proof.Machine
end

section
/-! PROOF of O43. The quantizer's four maps (47_quantizer.md R350 to R357). -/

namespace Sys2Proof.Machine

section
variable {ctrl : BitVec 32} {thr : NUM} {ctx : Context} {rn : Grid NUM} {acc : Grid Accum} {ghost : Grid Bool}
  {h w : Nat}

/-- The words of a pixel of the frame. -/
theorem quantize_words_inside {r c : Nat} (hw : w ≤ 2 ^ 32) (hr : r < h) (hc : c < w) :
    let a := Grid.read Accum.zero acc r c
    let after := quantize ctrl thr ctx rn acc ghost h w
    Memory.read 0 after.outRange (pixKey r c) =
        rangeWord ctrl thr ctx (rn.num r c) a.snr (Grid.read false ghost r c) r c ∧
      Memory.read 0 after.outSignal (pixKey r c) = quantizeSignal a.sig ∧
      Memory.read 0 after.outBackground (pixKey r c) = quantizeBackground a.bg ∧
      Memory.read 0 after.outSnr (pixKey r c) = quantizeSnr a.snr :=
  ⟨Memory.read_ofPixels_inside _ hw hr hc, Memory.read_ofPixels_inside _ hw hr hc,
    Memory.read_ofPixels_inside _ hw hr hc, Memory.read_ofPixels_inside _ hw hr hc⟩

/-- Outside the frame every map reads 0 (47_quantizer.md R357). -/
theorem quantize_words_outside {k : Nat} (hk : ∀ r c, r < h → c < w → k ≠ pixKey r c) :
    let after := quantize ctrl thr ctx rn acc ghost h w
    Memory.read 0 after.outRange k = 0 ∧ Memory.read 0 after.outSignal k = 0 ∧
      Memory.read 0 after.outBackground k = 0 ∧ Memory.read 0 after.outSnr k = 0 :=
  ⟨Memory.read_ofPixels_outside _ hk, Memory.read_ofPixels_outside _ hk, Memory.read_ofPixels_outside _ hk,
    Memory.read_ofPixels_outside _ hk⟩

end

/-- Settles O43: inside the frame the range word turns on `pixelInvalid`, which R352 spells out. -/
theorem quantizerWritesWholeMaps : Obligations.QuantizerWritesWholeMaps := by
  intro ctrl thr ctx rn acc ghost h w hw after
  refine ⟨rfl, ?_, fun k hk => quantize_words_outside hk⟩
  intro r c hr hc a d r1 r2 invalid
  obtain ⟨hrange, hsignal, hbackground, hsnr⟩ := quantize_words_inside (h := h) (w := w) (by omega) hr hc
  have hinvalid : pixelInvalid ctrl thr ctx.rangeLimit r2 a.snr (ctx.maskBit r c) (Grid.read false ghost r c) = true ↔
      invalid := pixelInvalid_iff
  exact ⟨fun hinv => hrange.trans (if_pos (hinvalid.mpr hinv)),
    fun hval => hrange.trans (if_neg (mt hinvalid.mp hval)), hsignal, hbackground, hsnr⟩

end Sys2Proof.Machine
end
